-- ==== Sys2Proof/Word.lean ====
section
/-! DEFINITION. The two word types of the block and nothing else.
Every datum on either stream is one unsigned 8-bit byte, and the only wider data are 16-bit fields (R6). -/

namespace Sys2Proof

/-- One byte of a stream or of a frame, bit 0 the least significant (R6, R38). -/
abbrev Byte := BitVec 8

/-- A 16-bit field assembled from two bytes: a PM value in tenths, or a device ID (R6, R49). -/
abbrev Half := BitVec 16

end Sys2Proof
end

