-- ==== Sys2Proof/Config.lean ====
section
/-! DEFINITION. What an instance of the block fixes when it is made, and the values the spec leaves open.
The protocol constants of R5 are no configuration (R9): they stand in Machine/Constants.lean. -/

namespace Sys2Proof

/-- The one open parameter of the block (R8): the response types DECODE turns into a DeviceInfoRecord. -/
structure Config where
  /-- `DEVINFO_TYPES`, a set of bytes, kept as a list without repeats. -/
  devinfoTypes : List Byte
  deriving DecidableEq, Repr

/-- FREE VALUE: what `buf[i]` holds after the `n`-th run-time reset (R25, R134, U4: "unspecified: each may hold any
byte").  No body: which byte it is cannot be proved.  DESIGN CHOICE: it depends on `n` and `i` alone, so two instances, or
two runs, whose counts of resets are equal have the same bytes there, which the spec does not say; unsafe for a claim
that compares them (notes/assumptions/5.md). -/
opaque Config.bufAfterReset : (n : Nat) → (i : Nat) → Byte

end Sys2Proof
end

