-- ==== Sys2Proof/Machine/Constants.lean ====
section
/-! DEFINITION. The protocol constants of rule R5 and the default of the parameter of rule R8, under the spec's
own names. -/

namespace Sys2Proof

/-- Start byte of both frame formats, and the byte RESYNC looks for (R5). -/
abbrev START : Byte := 0xAA
/-- Type byte of the outbound frame (R5). -/
abbrev OUT_TYPE : Byte := 0xB4
/-- Each of the two filler bytes of the outbound frame (R5). -/
abbrev FILL : Byte := 0xFF
/-- Terminator byte of both frame formats (R5). -/
abbrev TERM : Byte := 0xAB
/-- Length in bytes of the outbound frame (R5, conflict C1 resolved). -/
abbrev OUT_LEN : Nat := 19
/-- Length in bytes of the inbound frame (R5). -/
abbrev IN_LEN : Nat := 10
/-- Bytes read after the start byte to complete an inbound frame (R5). -/
abbrev BODY_LEN : Nat := 9
/-- Largest payload the encoder accepts; also the payload length on the wire (R5). -/
abbrev MAX_PAYLOAD : Nat := 12
/-- Payload bytes of an inbound frame (R5). -/
abbrev IN_PAYLOAD : Nat := 6
/-- Fixed additive constant of the outbound checksum (R5, R59: "preserve exactly"). -/
abbrev CHK_OUT_ADJ : Int := -2
/-- First frame offset summed by the inbound checksum: the type byte (R5, conflict C2 resolved). -/
abbrev CHK_IN_FIRST : Nat := 1
/-- Last frame offset summed by the inbound checksum: `d5` (R5, conflict C2 resolved). -/
abbrev CHK_IN_LAST : Nat := 7
/-- Response type of a measurement frame (R5). -/
abbrev MEAS_TYPE : Byte := 0xC0
/-- Divisor from the raw 16-bit value to micrograms per cubic metre (R5). -/
abbrev PM_SCALE : Nat := 10

/-- The six command codes (R5, R47). -/
abbrev CMD_SETMODE : Byte := 2
abbrev CMD_QUERYDATA : Byte := 4
abbrev CMD_DEVICEID : Byte := 5
abbrev CMD_SLEEP : Byte := 6
abbrev CMD_FIRMWARE : Byte := 7
abbrev CMD_WORKINGPERIOD : Byte := 8

/-- The codes that have a name; every other code is `ENC.RESERVED` (R47, R52). -/
abbrev namedCommands : List Byte :=
  [CMD_SETMODE, CMD_QUERYDATA, CMD_DEVICEID, CMD_SLEEP, CMD_FIRMWARE, CMD_WORKINGPERIOD]

/-- The default parameter, `DEVINFO_TYPES = 0xC1` alone (R8, D11). -/
def Config.default : Config := { devinfoTypes := [0xC1] }

/-- `DEVINFO_TYPES` is a set of bytes that does not contain `MEAS_TYPE` (R8). -/
def Config.wf (cfg : Config) : Bool :=
  decide (MEAS_TYPE ∉ cfg.devinfoTypes) && decide cfg.devinfoTypes.Nodup

end Sys2Proof
end

