-- ==== Sys2Proof/Syntax.lean ====
section
/-! DEFINITION. The operations of `AQI-CORE ops`: one constructor of `Instr` for each row of spec/opcode_table.json,
and the plain data its operands and its selection need. -/

namespace Sys2Proof

/-- The six payload bytes `d0..d5` of an inbound frame, frame offsets 2..7 (R46). -/
structure InPayload where
  d0 : Byte
  d1 : Byte
  d2 : Byte
  d3 : Byte
  d4 : Byte
  d5 : Byte
  deriving DecidableEq, Repr

/-- The fields of format `IN10` (R46). -/
structure InFrame where
  start    : Byte
  type     : Byte
  payload  : InPayload
  checksum : Byte
  term     : Byte
  deriving DecidableEq, Repr

/-- The sequencer `(dstate, cnt)` (R13, R15, R17).  The pairs that rule R18 (a) and entry U12 call unreachable
(`cnt` not 0 while seeking, `cnt` above 8) cannot be written (notes/assumptions/6.md). -/
inductive Sequencer where
  /-- `dstate = SEEKING_START`, `cnt = 0`: the next byte is a candidate for frame offset 0. -/
  | seekingStart
  /-- `dstate = FRAME_BODY` with `cnt` body bytes stored: the next byte belongs to frame offset `cnt + 1`. -/
  | frameBody (cnt : Fin 9)
  /-- The source's DECODED, a transient inside the completing step that is left with no event (R14); no step
  ends in it (notes/assumptions/7.md). -/
  | decoded
  deriving DecidableEq, Repr

/-- Where an operation's bits are presented: to the encoder (format `OUT19`), or to the decoder, which reads them
as its sequencer stands: `BYTE1` or `EVENT` while seeking, `BODY1` or `EVENT` in a frame body, `IN10` in the
transient DECODED (R57, R89). -/
inductive Slot where
  | encoder
  | decoder (q : Sequencer)
  deriving DecidableEq, Repr

/-- The 16 rows of the opcode table. -/
inductive Instr where
  /-- `ENC.SETMODE` (R70): an encoder request with `cmd = 2` and payload `P`. -/
  | encSetmode (payload : List Byte)
  /-- `ENC.QUERYDATA` (R71), `cmd = 4`. -/
  | encQuerydata (payload : List Byte)
  /-- `ENC.DEVICEID` (R72), `cmd = 5`. -/
  | encDeviceid (payload : List Byte)
  /-- `ENC.SLEEP` (R73), `cmd = 6`. -/
  | encSleep (payload : List Byte)
  /-- `ENC.FIRMWARE` (R74), `cmd = 7`. -/
  | encFirmware (payload : List Byte)
  /-- `ENC.WORKINGPERIOD` (R75), `cmd = 8`. -/
  | encWorkingperiod (payload : List Byte)
  /-- `ENC.RESERVED` (R77): any other command byte. -/
  | encReserved (cmd : Byte) (payload : List Byte)
  /-- `DEC.MEAS` (R95): a completed frame of type `0xC0`, with the bytes of frame offsets 2..9. -/
  | decMeas (d : InPayload) (checksum term : Byte)
  /-- `DEC.DEVINFO` (R96): a completed frame whose type is in `DEVINFO_TYPES`. -/
  | decDevinfo (type : Byte) (d : InPayload) (checksum term : Byte)
  /-- `DEC.UNKNOWN` (R97): a completed frame of any other type. -/
  | decUnknown (type : Byte) (d : InPayload) (checksum term : Byte)
  /-- `RESYNC.START` (R82): the byte `0xAA` while seeking. -/
  | resyncStart
  /-- `RESYNC.SKIP` (R81): any other byte while seeking. -/
  | resyncSkip (b : Byte)
  /-- `READ_FRAME.BODY` (R84): a byte in a frame body with `cnt` at most 7. -/
  | readFrameBody (b : Byte)
  /-- `READ_FRAME.LAST` (R85): a byte in a frame body with `cnt = 8`, the completing step. -/
  | readFrameLast (b : Byte)
  /-- `RESYNC.END` (R83): the event `RxEnd` while seeking. -/
  | resyncEnd
  /-- `READ_FRAME.SHORT` (R86): the event `RxEnd` in a frame body. -/
  | readFrameShort
  deriving DecidableEq, Repr

/-- The name spec/opcode_table.json gives the row, letter for letter. -/
def Instr.mnemonic : Instr → String
  | .encSetmode _ => "ENC.SETMODE"
  | .encQuerydata _ => "ENC.QUERYDATA"
  | .encDeviceid _ => "ENC.DEVICEID"
  | .encSleep _ => "ENC.SLEEP"
  | .encFirmware _ => "ENC.FIRMWARE"
  | .encWorkingperiod _ => "ENC.WORKINGPERIOD"
  | .encReserved _ _ => "ENC.RESERVED"
  | .decMeas _ _ _ => "DEC.MEAS"
  | .decDevinfo _ _ _ _ => "DEC.DEVINFO"
  | .decUnknown _ _ _ _ => "DEC.UNKNOWN"
  | .resyncStart => "RESYNC.START"
  | .resyncSkip _ => "RESYNC.SKIP"
  | .readFrameBody _ => "READ_FRAME.BODY"
  | .readFrameLast _ => "READ_FRAME.LAST"
  | .resyncEnd => "RESYNC.END"
  | .readFrameShort => "READ_FRAME.SHORT"

/-- The formats of the opcode table (R57). -/
inductive Format where
  | out19 | in10 | byte1 | body1 | event
  deriving DecidableEq, Repr

/-- The bytes a format has: 19, 10, 1, 1, and none for the event that has no bits (R57). -/
def Format.bytes : Format → Nat
  | .out19 => 19
  | .in10 => 10
  | .byte1 => 1
  | .body1 => 1
  | .event => 0

/-- The format the table gives each operation. -/
def Instr.format : Instr → Format
  | .encSetmode _ => .out19
  | .encQuerydata _ => .out19
  | .encDeviceid _ => .out19
  | .encSleep _ => .out19
  | .encFirmware _ => .out19
  | .encWorkingperiod _ => .out19
  | .encReserved _ _ => .out19
  | .decMeas _ _ _ => .in10
  | .decDevinfo _ _ _ _ => .in10
  | .decUnknown _ _ _ _ => .in10
  | .resyncStart => .byte1
  | .resyncSkip _ => .byte1
  | .readFrameBody _ => .body1
  | .readFrameLast _ => .body1
  | .resyncEnd => .event
  | .readFrameShort => .event

/-- One row of the opcode table: `F` selects it when `F AND mask = pattern`, byte by byte (R57). -/
structure Row where
  mnemonic : String
  format   : Format
  pattern  : List Byte
  mask     : List Byte
  deriving DecidableEq, Repr

end Sys2Proof
end

