-- ==== Sys2Proof/Machine/Operands.lean ====
section
/-! DEFINITION. Operand and field assembly: payload padding, the two offset maps, 16-bit fields, byte lanes of the
ports, and the command forms' codes (R45 to R50, R78, R98, R101). -/

namespace Sys2Proof

/-- `le16(lo, hi) = lo + 256 * hi`, unsigned (R37, R49). -/
def le16 (lo hi : Byte) : Half :=
  BitVec.ofNat 16 (lo.toNat + 256 * hi.toNat)

/-- The PM value of a raw field: the exact rational of tenths, micrograms per cubic metre (R98). -/
def pmValue (raw : Half) : Rat :=
  (raw.toNat : Rat) / (PM_SCALE : Rat)

/-- Payload padding (R50): zero bytes on the right up to 12. -/
def padPayload (P : List Byte) : List Byte :=
  P ++ List.replicate (MAX_PAYLOAD - P.length) 0

/-- The fields of `IN10` by frame offset: the map of R46 over the frame buffer. -/
def frameOf (buf : Vector Byte 10) : InFrame :=
  { start := buf[0], type := buf[1]
    payload := { d0 := buf[2], d1 := buf[3], d2 := buf[4], d3 := buf[5], d4 := buf[6], d5 := buf[7] }
    checksum := buf[8], term := buf[9] }

/-- The six payload bytes in order. -/
def InPayload.bytes (d : InPayload) : List Byte :=
  [d.d0, d.d1, d.d2, d.d3, d.d4, d.d5]

/-- The ten bytes of an `IN10` frame in wire order, frame offset 0 first (R46). -/
def InFrame.bytes (f : InFrame) : List Byte :=
  [f.start, f.type] ++ f.payload.bytes ++ [f.checksum, f.term]

/-- Byte lane `k` of a port: its bits `[8k+7 : 8k]` (R78, R101). -/
def lane {n : Nat} (v : BitVec n) (k : Nat) : Byte :=
  v.extractLsb' (8 * k) 8

/-- The number whose byte lane `k` is byte `k` of the list: lane 0 is the least significant (R78, R101). -/
def lanesValue : List Byte → Nat
  | [] => 0
  | b :: bs => b.toNat + 256 * lanesValue bs

/-- The `n` low bytes of a number, the least significant first. -/
def numberBytes (n w : Nat) : List Byte :=
  (List.range n).map (fun k => BitVec.ofNat 8 (w >>> (8 * k)))

/-- The bytes a word of `nbits` bits stands for.  R57 writes a frame as one hexadecimal string with frame offset 0
leftmost, so a word whose leftmost byte is the start byte is read in that order; every other word is read with bit 0
the least significant bit of the first byte (notes/assumptions/9.md). -/
def tableBytes (nbits w : Nat) : List Byte :=
  let lowFirst := numberBytes (nbits / 8) w
  if lowFirst.getLast? = some START then lowFirst.reverse else lowFirst

end Sys2Proof
end

