-- ==== Sys2Proof/Machine/Flags.lean ====
section
/-! DEFINITION. The checksum arithmetic and the two validity flags (40_checksum.md).  Sums are formed on integers and
reduced once with the floored modulus (R58). -/

namespace Sys2Proof

/-- The integer sum of a list of bytes. -/
def sumBytes (bs : List Byte) : Nat :=
  (bs.map BitVec.toNat).sum

/-- `CHK_OUT(cmd, data) = (sum(data) + cmd - 2) mod 256` (R59). -/
def chkOut (cmd : Byte) (data : List Byte) : Byte :=
  BitVec.ofInt 8 ((sumBytes data : Int) + (cmd.toNat : Int) + CHK_OUT_ADJ)

/-- `CHK_IN`: the sum of frame offsets 1 to 7, the type byte and `d0..d5`, modulo 256 (R61). -/
def chkIn (f : InFrame) : Byte :=
  BitVec.ofNat 8 (sumBytes ((f.bytes.drop CHK_IN_FIRST).take (CHK_IN_LAST + 1 - CHK_IN_FIRST)))

/-- `checksum_ok` (R62): the received checksum byte equals the recomputed one. -/
def checksumOk (f : InFrame) : Bool :=
  decide (chkIn f = f.checksum)

/-- `terminator_ok` (R63). -/
def terminatorOk (f : InFrame) : Bool :=
  decide (f.term = TERM)

/-- The outbound frame of a command byte and its padded payload (R45, R67): `AA B4 cmd data FF FF checksum AB`. -/
def outFrame (cmd : Byte) (data : List Byte) : List Byte :=
  [START, OUT_TYPE, cmd] ++ data ++ [FILL, FILL, chkOut cmd data, TERM]

end Sys2Proof
end

