-- ==== Sys2Proof/Machine/Records.lean ====
section
/-! DEFINITION. The decode result and DECODE as a function of a completed frame (43_decode.md). -/

namespace Sys2Proof

/-- The variant of a result with its typed fields (R93). -/
inductive Variant where
  /-- MEAS: the two PM values in tenths (R95). -/
  | measurement (pm25_x10 pm10_x10 : Half)
  /-- DEVINFO: the raw date bytes and the device ID (R96, R102). -/
  | deviceInfo (year month day : Byte) (device_id : Half)
  /-- UNKNOWN: no further fields (R97). -/
  | unknown
  deriving DecidableEq, Repr

/-- A decode result: the variant, the two flags, and in every variant the raw type and payload (R93, R99). -/
structure Result where
  variant       : Variant
  checksum_ok   : Bool
  terminator_ok : Bool
  type          : Byte
  payload       : InPayload
  deriving DecidableEq, Repr

/-- A result of the given variant with the validity metadata and the raw bytes attached (R93, R99). -/
def resultOf (v : Variant) (f : InFrame) : Result :=
  { variant := v, checksum_ok := checksumOk f, terminator_ok := terminatorOk f, type := f.type, payload := f.payload }

/-- `DEC.MEAS` on a frame (R95): two little-endian values at payload offsets 0..1 and 2..3, `d4` and `d5` ignored. -/
def measResult (f : InFrame) : Result :=
  resultOf (.measurement (le16 f.payload.d0 f.payload.d1) (le16 f.payload.d2 f.payload.d3)) f

/-- `DEC.DEVINFO` on a frame (R96): year, month, day at payload offsets 0..2, the device ID at 3..4, `d5` ignored. -/
def devinfoResult (f : InFrame) : Result :=
  resultOf (.deviceInfo f.payload.d0 f.payload.d1 f.payload.d2 (le16 f.payload.d3 f.payload.d4)) f

/-- `DEC.UNKNOWN` on a frame (R97). -/
def unknownResult (f : InFrame) : Result :=
  resultOf .unknown f

/-- `DECODE` (R94): the type byte alone selects the variant, `0xC0` first. -/
def decodeFrame (cfg : Config) (f : InFrame) : Result :=
  if f.type = MEAS_TYPE then measResult f
  else if f.type ∈ cfg.devinfoTypes then devinfoResult f
  else unknownResult f

/-- The code of a variant on the port `res_kind` (R101, D13). -/
def Variant.code : Variant → BitVec 2
  | .measurement _ _ => 0
  | .deviceInfo _ _ _ _ => 1
  | .unknown => 2

end Sys2Proof
end

