-- ==== Sys2Proof/Machine/State.lean ====
section
/-! DEFINITION. The state of one instance, plain data, and the state right after reset.  The spec's own state is the
sequencer and the frame buffer (R11); the other fields are the model's own, each named in the assumption log. -/

namespace Sys2Proof.Machine

/-- The two hard errors of the decoder (R103, R106, R107).  The decoder never raises `PayloadTooLarge` (R105). -/
inductive DecError where
  /-- The stream ended while a start byte was sought. -/
  | endOfStream
  /-- The stream ended in a frame body with `k` body bytes received. -/
  | shortRead (k : Fin 9)
  deriving DecidableEq, Repr

/-- The output of a decoder step: at most one thing (00_scope.md section 6.3). -/
inductive DecOut where
  | none
  | frame (r : Result)
  | err (e : DecError)
  deriving DecidableEq, Repr

/-- The answer to an encoder request (00_scope.md section 6.3). -/
inductive EncOut where
  /-- No request has been answered yet. -/
  | none
  /-- `TxFrame(F)`, offset 0 first. -/
  | txFrame (F : List Byte)
  /-- `Err(PayloadTooLarge(n))`, and no frame (R68). -/
  | payloadTooLarge (n : Nat)
  deriving DecidableEq, Repr

/-- An event of the RX stream (R32). -/
inductive RxEvent where
  | rxByte (b : Byte)
  | rxEnd
  deriving DecidableEq, Repr

/-- What the outside can do to the block (R122): an encoder request, an RX event, a clock edge that offers no event
(R22, R35), a reset (R134). -/
inductive Input where
  | encReq (cmd : Byte) (P : List Byte)
  | rx (ev : RxEvent)
  | idle
  | reset
  deriving DecidableEq, Repr

/-- Why an operation can stop.  The block itself never stops (R92) and no step of the model does. -/
inductive Fault where
  /-- Raised by a meaning of the decoder run directly in a sequencer state that does not select it (R81 to R86 say
  which does); `step` never raises it.  Safe: it stops where the spec gives no effect. -/
  | notSelected
  deriving DecidableEq, Repr

/-- Why the model can refuse an operation. -/
inductive Refusal where
  /-- Raised by no arm: every operation of the table has its meaning.  Safe. -/
  | notModelled (mnemonic : String)
  deriving DecidableEq, Repr

/-- One instance of the block. -/
@[ext]
structure State where
  /-- The sequencer `(dstate, cnt)` (R13, R15). -/
  seq    : Sequencer
  /-- The frame buffer `buf[0..9]`, ten registers of 8 bits (R16). -/
  buf    : Vector Byte 10
  /-- The output of the decoder's latest step (R25). -/
  decOut : DecOut
  /-- The outbound frame lanes: the answer to the latest encoder request (R23 (b)). -/
  encOut : EncOut
  /-- The environment's inputs still to come, in order: the RX stream (R23 (a)), the requests, the resets. -/
  inputs : List Input
  /-- The parameter of the instance, never written (R8, R43). -/
  cfg    : Config
  /-- How many run-time resets have happened: the counter the free value `Config.bufAfterReset` is applied to. -/
  resets : Nat
  deriving DecidableEq, Repr

/-- The machine right after reset (R25): seeking, no output, the default parameter.  `buf` is unspecified by the spec;
zeros here (notes/assumptions/4.md). -/
def State.reset : State :=
  { seq := .seekingStart, buf := Vector.replicate 10 0, decOut := .none, encOut := .none, inputs := []
    cfg := Config.default, resets := 0 }

end Sys2Proof.Machine
end

