-- ==== Sys2Proof/Machine/Ops.lean ====
section
/-! DEFINITION. The named operations every meaning is written over: the five updates of State, delivering a result,
raising a hard error, answering a request, and what the quiet inputs do. -/

namespace Sys2Proof.Machine

/-- `buf[i] <- b` (R16). -/
def State.writeBuf (i : Fin 10) (b : Byte) (s : State) : State :=
  { s with buf := s.buf.set i.val b i.isLt }

/-- The sequencer moves: `dstate` and `cnt` are written together (R17). -/
def State.moveTo (q : Sequencer) (s : State) : State :=
  { s with seq := q }

/-- The output of this decoder step (00_scope.md section 6.2). -/
def State.report (o : DecOut) (s : State) : State :=
  { s with decOut := o }

/-- The answer to this encoder request: the only thing an encoder step writes (R12, R36). -/
def State.answer (o : EncOut) (s : State) : State :=
  { s with encOut := o }

/-- The inputs still to come: an event is consumed exactly once, from the front (R33). -/
def State.withInputs (l : List Input) (s : State) : State :=
  { s with inputs := l }

/-- The completed frame, as `buf` holds it (R46). -/
def State.frame (s : State) : InFrame := frameOf s.buf

/-- Deliver a decode result: `emit Frame(r)`, and back to seeking (R14, R85). -/
def State.deliver (r : Result) (s : State) : State :=
  (s.moveTo .seekingStart).report (.frame r)

/-- TAKING AN EXCEPTION on this block: `raise e` makes `e` the output of the decoder step, and the decoder is left
seeking with `cnt = 0` and `buf` unchanged (R109, R110).  Nothing is saved and there is no return (R116). -/
def State.raise (e : DecError) (s : State) : State :=
  (s.moveTo .seekingStart).report (.err e)

/-- `ENCODE(cmd, P)` (R67, R68): the length test is made before anything else; no frame accompanies the error. -/
def encodeFrame (cmd : Byte) (P : List Byte) : EncOut :=
  if P.length > MAX_PAYLOAD then .payloadTooLarge P.length
  else .txFrame (outFrame cmd (padPayload P))

/-- A clock edge that offers no event: no decoder step, state held, the report outputs fall to none (R22, R35). -/
def idleEdge (s : State) : State :=
  s.report .none

/-- The reset input (R134): the decoder takes its reset values, `buf` is left at free values (R25, U4), the encoder
is not affected.  DESIGN CHOICE: the free bytes are those of the count of resets, the same in every instance with that
count (notes/assumptions/5.md). -/
def resetInput (s : State) : State :=
  { s with
    seq := .seekingStart
    buf := Vector.ofFn (fun i : Fin 10 => Config.bufAfterReset s.resets i.val)
    decOut := .none
    resets := s.resets + 1 }

end Sys2Proof.Machine
end

