-- ==== Sys2Proof/Machine/Encoder.lean ====
section
/-! DEFINITION. Meanings of the seven `ENC.*` forms (R70 to R77): ENCODE with the command byte of the form. -/

namespace Sys2Proof.Machine

/-- `ENC.SETMODE` (R70). -/
def execEncSetmode (P : List Byte) (s : State) : Host.Outcome State Fault Refusal :=
  .next (s.answer (encodeFrame CMD_SETMODE P))

/-- `ENC.QUERYDATA` (R71). -/
def execEncQuerydata (P : List Byte) (s : State) : Host.Outcome State Fault Refusal :=
  .next (s.answer (encodeFrame CMD_QUERYDATA P))

/-- `ENC.DEVICEID` (R72). -/
def execEncDeviceid (P : List Byte) (s : State) : Host.Outcome State Fault Refusal :=
  .next (s.answer (encodeFrame CMD_DEVICEID P))

/-- `ENC.SLEEP` (R73): a frame for the sensor, with no effect on the block (R120). -/
def execEncSleep (P : List Byte) (s : State) : Host.Outcome State Fault Refusal :=
  .next (s.answer (encodeFrame CMD_SLEEP P))

/-- `ENC.FIRMWARE` (R74). -/
def execEncFirmware (P : List Byte) (s : State) : Host.Outcome State Fault Refusal :=
  .next (s.answer (encodeFrame CMD_FIRMWARE P))

/-- `ENC.WORKINGPERIOD` (R75). -/
def execEncWorkingperiod (P : List Byte) (s : State) : Host.Outcome State Fault Refusal :=
  .next (s.answer (encodeFrame CMD_WORKINGPERIOD P))

/-- `ENC.RESERVED` (R77): the command byte is not checked. -/
def execEncReserved (cmd : Byte) (P : List Byte) (s : State) : Host.Outcome State Fault Refusal :=
  .next (s.answer (encodeFrame cmd P))

end Sys2Proof.Machine
end

