-- ==== Sys2Proof/Machine/ReadFrame.lean ====
section
/-! DEFINITION. Meanings of the three `READ_FRAME.*` forms (R84 to R86): collecting the nine body bytes. -/

namespace Sys2Proof.Machine

/-- `READ_FRAME.BODY` (R84), `cnt` at most 7: `buf[cnt + 1] <- b`, `cnt <- cnt + 1`. -/
def execReadFrameBody (b : Byte) (s : State) : Host.Outcome State Fault Refusal :=
  match s.seq with
  | .frameBody c =>
    if h : c.val < 8 then
      .next (((s.writeBuf c.succ b).moveTo (.frameBody ⟨c.val + 1, Nat.succ_lt_succ h⟩)).report .none)
    else .fault .notSelected
  | .seekingStart => .fault .notSelected
  | .decoded => .fault .notSelected

/-- `READ_FRAME.LAST` (R85), `cnt = 8`: `buf[9] <- b`, then DECODE of the completed frame and its delivery, all in
this one step. -/
def execReadFrameLast (b : Byte) (s : State) : Host.Outcome State Fault Refusal :=
  match s.seq with
  | .frameBody c =>
    if c.val = 8 then
      .next ((s.writeBuf 9 b).deliver (decodeFrame s.cfg (s.writeBuf 9 b).frame))
    else .fault .notSelected
  | .seekingStart => .fault .notSelected
  | .decoded => .fault .notSelected

/-- `READ_FRAME.SHORT` (R86): `ShortRead(cnt)`, always, also with `cnt = 0`. -/
def execReadFrameShort (s : State) : Host.Outcome State Fault Refusal :=
  match s.seq with
  | .frameBody c => .next (s.raise (.shortRead c))
  | .seekingStart => .fault .notSelected
  | .decoded => .fault .notSelected

end Sys2Proof.Machine
end

