-- ==== Sys2Proof/Machine/Resync.lean ====
section
/-! DEFINITION. Meanings of the three `RESYNC.*` forms (R81 to R83): finding the start byte. -/

namespace Sys2Proof.Machine

/-- `RESYNC.SKIP` (R81): the byte is consumed and stored nowhere. -/
def execResyncSkip (_b : Byte) (s : State) : Host.Outcome State Fault Refusal :=
  match s.seq with
  | .seekingStart => .next (s.report .none)
  | .frameBody _ => .fault .notSelected
  | .decoded => .fault .notSelected

/-- `RESYNC.START` (R82): `buf[0] <- 0xAA`, `cnt <- 0`, `dstate <- FRAME_BODY`. -/
def execResyncStart (s : State) : Host.Outcome State Fault Refusal :=
  match s.seq with
  | .seekingStart => .next (((s.writeBuf 0 START).moveTo (.frameBody 0)).report .none)
  | .frameBody _ => .fault .notSelected
  | .decoded => .fault .notSelected

/-- `RESYNC.END` (R83): `EndOfStream`, always. -/
def execResyncEnd (s : State) : Host.Outcome State Fault Refusal :=
  match s.seq with
  | .seekingStart => .next (s.raise .endOfStream)
  | .frameBody _ => .fault .notSelected
  | .decoded => .fault .notSelected

end Sys2Proof.Machine
end

