-- ==== Sys2Proof/Machine/Typed.lean ====
section
/-! DEFINITION. Meanings of the three `DEC.*` forms (R95 to R97): the internal step that leaves the transient DECODED
with the typed result of the frame (R14).  Their operands are the frame's bytes at offsets 1..9. -/

namespace Sys2Proof.Machine

/-- `DEC.MEAS` (R95). -/
def execDecMeas (d : InPayload) (ck tm : Byte) (s : State) : Host.Outcome State Fault Refusal :=
  match s.seq with
  | .decoded =>
    .next (s.deliver (measResult { start := START, type := MEAS_TYPE, payload := d, checksum := ck, term := tm }))
  | .seekingStart => .fault .notSelected
  | .frameBody _ => .fault .notSelected

/-- `DEC.DEVINFO` (R96). -/
def execDecDevinfo (ty : Byte) (d : InPayload) (ck tm : Byte) (s : State) : Host.Outcome State Fault Refusal :=
  match s.seq with
  | .decoded =>
    .next (s.deliver (devinfoResult { start := START, type := ty, payload := d, checksum := ck, term := tm }))
  | .seekingStart => .fault .notSelected
  | .frameBody _ => .fault .notSelected

/-- `DEC.UNKNOWN` (R97). -/
def execDecUnknown (ty : Byte) (d : InPayload) (ck tm : Byte) (s : State) : Host.Outcome State Fault Refusal :=
  match s.seq with
  | .decoded =>
    .next (s.deliver (unknownResult { start := START, type := ty, payload := d, checksum := ck, term := tm }))
  | .seekingStart => .fault .notSelected
  | .frameBody _ => .fault .notSelected

end Sys2Proof.Machine
end

