-- ==== Sys2Proof/Machine/Dispatch.lean ====
section
/-! DEFINITION. One arm for each row of the opcode table. -/

namespace Sys2Proof.Machine

def exec (i : Instr) (s : State) : Host.Outcome State Fault Refusal :=
  match i with
  | .encSetmode P => Sys2Proof.Machine.execEncSetmode P s
  | .encQuerydata P => Sys2Proof.Machine.execEncQuerydata P s
  | .encDeviceid P => Sys2Proof.Machine.execEncDeviceid P s
  | .encSleep P => Sys2Proof.Machine.execEncSleep P s
  | .encFirmware P => Sys2Proof.Machine.execEncFirmware P s
  | .encWorkingperiod P => Sys2Proof.Machine.execEncWorkingperiod P s
  | .encReserved cmd P => Sys2Proof.Machine.execEncReserved cmd P s
  | .decMeas d ck tm => Sys2Proof.Machine.execDecMeas d ck tm s
  | .decDevinfo ty d ck tm => Sys2Proof.Machine.execDecDevinfo ty d ck tm s
  | .decUnknown ty d ck tm => Sys2Proof.Machine.execDecUnknown ty d ck tm s
  | .resyncStart => Sys2Proof.Machine.execResyncStart s
  | .resyncSkip b => Sys2Proof.Machine.execResyncSkip b s
  | .readFrameBody b => Sys2Proof.Machine.execReadFrameBody b s
  | .readFrameLast b => Sys2Proof.Machine.execReadFrameLast b s
  | .resyncEnd => Sys2Proof.Machine.execResyncEnd s
  | .readFrameShort => Sys2Proof.Machine.execReadFrameShort s

end Sys2Proof.Machine
end

