-- ==== Sys2Proof/WellFormed.lean ====
section
/-! DEFINITION. Which terms of `Instr` are an operation of the table: the checks the types do not make.
They depend on the parameter `DEVINFO_TYPES` (R8), which tells `DEC.DEVINFO` from `DEC.UNKNOWN`. -/

namespace Sys2Proof

/-- A payload the encoder accepts (R68) and a frame can carry (R50). -/
def payloadFits (P : List Byte) : Bool :=
  decide (P.length ≤ MAX_PAYLOAD)

/-- Well-formed: a payload fits, a reserved code has no name (R52), a typed frame has a type of its row (R48, R94), a
skipped byte is no start byte (R81). -/
def Instr.wf (cfg : Config) : Instr → Bool
  | .encSetmode P => payloadFits P
  | .encQuerydata P => payloadFits P
  | .encDeviceid P => payloadFits P
  | .encSleep P => payloadFits P
  | .encFirmware P => payloadFits P
  | .encWorkingperiod P => payloadFits P
  | .encReserved cmd P => decide (cmd ∉ namedCommands) && payloadFits P
  | .decMeas _ _ _ => true
  | .decDevinfo ty _ _ _ => decide (ty ≠ MEAS_TYPE) && decide (ty ∈ cfg.devinfoTypes)
  | .decUnknown ty _ _ _ => decide (ty ≠ MEAS_TYPE) && decide (ty ∉ cfg.devinfoTypes)
  | .resyncStart => true
  | .resyncSkip b => decide (b ≠ START)
  | .readFrameBody _ => true
  | .readFrameLast _ => true
  | .resyncEnd => true
  | .readFrameShort => true

/-- The encoder's slot. -/
def Slot.isEncoder : Slot → Bool
  | .encoder => true
  | .decoder _ => false

/-- The decoder's slot while it seeks a start byte. -/
def Slot.isSeeking : Slot → Bool
  | .decoder .seekingStart => true
  | _ => false

/-- The decoder's slot in a frame body whose `cnt` meets `p`. -/
def Slot.isBody (p : Fin 9 → Bool) : Slot → Bool
  | .decoder (.frameBody c) => p c
  | _ => false

/-- The decoder's slot in the transient DECODED. -/
def Slot.isDecoded : Slot → Bool
  | .decoder .decoded => true
  | _ => false

/-- The slots an operation can be selected in (R57, R81 to R86, R94): the encoder's for the seven `ENC.*` forms; the
transient DECODED for the three `DEC.*` forms; for the rest the stored sequencer its rule names. -/
def Instr.selectedIn : Instr → Slot → Bool
  | .encSetmode _ => Slot.isEncoder
  | .encQuerydata _ => Slot.isEncoder
  | .encDeviceid _ => Slot.isEncoder
  | .encSleep _ => Slot.isEncoder
  | .encFirmware _ => Slot.isEncoder
  | .encWorkingperiod _ => Slot.isEncoder
  | .encReserved _ _ => Slot.isEncoder
  | .decMeas _ _ _ => Slot.isDecoded
  | .decDevinfo _ _ _ _ => Slot.isDecoded
  | .decUnknown _ _ _ _ => Slot.isDecoded
  | .resyncStart => Slot.isSeeking
  | .resyncSkip _ => Slot.isSeeking
  | .readFrameBody _ => Slot.isBody (fun c => decide (c.val < 8))
  | .readFrameLast _ => Slot.isBody (fun c => decide (c.val = 8))
  | .resyncEnd => Slot.isSeeking
  | .readFrameShort => Slot.isBody (fun _ => true)

end Sys2Proof
end

