-- ==== Sys2Proof/Decode.lean ====
section
/-! DEFINITION. From presented bits to an operation and back: the selection rules (R47, R48, R89, R94), the decoder
of words by slot, total and rejecting by name, the opcode table as data (R57), and the encoder of words. -/

namespace Sys2Proof

/-- The form of an encoder request, by its command byte (R47, R52). -/
def Instr.ofRequest (cmd : Byte) (P : List Byte) : Instr :=
  if cmd = CMD_SETMODE then .encSetmode P
  else if cmd = CMD_QUERYDATA then .encQuerydata P
  else if cmd = CMD_DEVICEID then .encDeviceid P
  else if cmd = CMD_SLEEP then .encSleep P
  else if cmd = CMD_FIRMWARE then .encFirmware P
  else if cmd = CMD_WORKINGPERIOD then .encWorkingperiod P
  else .encReserved cmd P

/-- The form of a completed frame, by its type byte in the order of R94. -/
def Instr.ofFrame (cfg : Config) (f : InFrame) : Instr :=
  if f.type = MEAS_TYPE then .decMeas f.payload f.checksum f.term
  else if f.type ∈ cfg.devinfoTypes then .decDevinfo f.type f.payload f.checksum f.term
  else .decUnknown f.type f.payload f.checksum f.term

/-- The form of a stream byte seen while seeking (R81, R82). -/
def Instr.ofSeekByte (b : Byte) : Instr :=
  if b = START then .resyncStart else .resyncSkip b

/-- The form of a stream byte seen in a frame body: told apart by `cnt`, never by the bits (R57, R84, R85, R87). -/
def Instr.ofBodyByte (cnt : Fin 9) (b : Byte) : Instr :=
  if cnt.val < 8 then .readFrameBody b else .readFrameLast b

/-- Why bits are no operation of their slot. -/
inductive DecodeError where
  /-- Not the length of the slot's format. -/
  | length (wanted given : Nat)
  /-- The byte at this offset is not the constant its format has there. -/
  | constant (offset : Nat)
  deriving DecidableEq, Repr

/-- The answer of the decoder. -/
inductive Decoded where
  | instr (i : Instr)
  | rejected (e : DecodeError)
  deriving DecidableEq, Repr

/-- The operation of an answer, if it is one. -/
def Decoded.instr? : Decoded → Option Instr
  | .instr i => some i
  | .rejected _ => none

/-- The constant bytes of `OUT19` by offset (R45). -/
def outConstants : List (Nat × Byte) :=
  [(0, START), (1, OUT_TYPE), (15, FILL), (16, FILL), (18, TERM)]

/-- An `OUT19` frame as the request it carries: the command byte and the 12 payload bytes.  The checksum byte is a
function of the others and outside the mask (R57), so it is not looked at. -/
def decodeOut19 (F : List Byte) : Decoded :=
  if F.length ≠ OUT_LEN then .rejected (.length OUT_LEN F.length)
  else match outConstants.find? (fun c => decide (F.getD c.1 0 ≠ c.2)) with
    | some c => .rejected (.constant c.1)
    | none => .instr (Instr.ofRequest (F.getD 2 0) ((F.drop 3).take MAX_PAYLOAD))

/-- An `IN10` frame: the start byte is the only constant enforced (R54). -/
def decodeIn10 (cfg : Config) : List Byte → Decoded
  | [s, ty, d0, d1, d2, d3, d4, d5, ck, tm] =>
    if s = START then
      .instr (Instr.ofFrame cfg { start := s, type := ty, payload := ⟨d0, d1, d2, d3, d4, d5⟩, checksum := ck, term := tm })
    else .rejected (.constant 0)
  | F => .rejected (.length IN_LEN F.length)

/-- A stream event as bits: no bits for `RxEnd`, one byte for `RxByte` (R57). -/
def decodeEvent (onEnd : Instr) (onByte : Byte → Instr) : List Byte → Decoded
  | [] => .instr onEnd
  | [b] => .instr (onByte b)
  | F => .rejected (.length 1 F.length)

/-- The decoder of words, total on any bytes in any slot. -/
def decode (cfg : Config) : Slot → List Byte → Decoded
  | .encoder => decodeOut19
  | .decoder .seekingStart => decodeEvent .resyncEnd Instr.ofSeekByte
  | .decoder (.frameBody cnt) => decodeEvent .readFrameShort (Instr.ofBodyByte cnt)
  | .decoder .decoded => decodeIn10 cfg

/-- The words of a well-formed operation, in wire order (R45, R46, R57). -/
def encode : Instr → List Byte
  | .encSetmode P => outFrame CMD_SETMODE (padPayload P)
  | .encQuerydata P => outFrame CMD_QUERYDATA (padPayload P)
  | .encDeviceid P => outFrame CMD_DEVICEID (padPayload P)
  | .encSleep P => outFrame CMD_SLEEP (padPayload P)
  | .encFirmware P => outFrame CMD_FIRMWARE (padPayload P)
  | .encWorkingperiod P => outFrame CMD_WORKINGPERIOD (padPayload P)
  | .encReserved cmd P => outFrame cmd (padPayload P)
  | .decMeas d ck tm => [START, MEAS_TYPE] ++ d.bytes ++ [ck, tm]
  | .decDevinfo ty d ck tm => [START, ty] ++ d.bytes ++ [ck, tm]
  | .decUnknown ty d ck tm => [START, ty] ++ d.bytes ++ [ck, tm]
  | .resyncStart => [START]
  | .resyncSkip b => [b]
  | .readFrameBody b => [b]
  | .readFrameLast b => [b]
  | .resyncEnd => []
  | .readFrameShort => []

/-- The operation with its payload as the wire carries it: the length of a payload is not sent (R50). -/
def Instr.padded : Instr → Instr
  | .encSetmode P => .encSetmode (padPayload P)
  | .encQuerydata P => .encQuerydata (padPayload P)
  | .encDeviceid P => .encDeviceid (padPayload P)
  | .encSleep P => .encSleep (padPayload P)
  | .encFirmware P => .encFirmware (padPayload P)
  | .encWorkingperiod P => .encWorkingperiod (padPayload P)
  | .encReserved cmd P => .encReserved cmd (padPayload P)
  | .decMeas d ck tm => .decMeas d ck tm
  | .decDevinfo ty d ck tm => .decDevinfo ty d ck tm
  | .decUnknown ty d ck tm => .decUnknown ty d ck tm
  | .resyncStart => .resyncStart
  | .resyncSkip b => .resyncSkip b
  | .readFrameBody b => .readFrameBody b
  | .readFrameLast b => .readFrameLast b
  | .resyncEnd => .resyncEnd
  | .readFrameShort => .readFrameShort

/-- The mask of an `OUT19` row: the five constant bytes, and the command byte where `cmd` is `0xFF` (R57). -/
def outMask (cmd : Byte) : List Byte :=
  [0xFF, 0xFF, cmd] ++ List.replicate 12 0 ++ [0xFF, 0xFF, 0, 0xFF]

/-- The pattern of an `OUT19` row. -/
def outPattern (cmd : Byte) : List Byte :=
  [0xAA, 0xB4, cmd] ++ List.replicate 12 0 ++ [0xFF, 0xFF, 0, 0xAB]

/-- The `OUT19` rows of spec/opcode_table.json in its order. -/
def encRows : List Row :=
  [ { mnemonic := "ENC.SETMODE", format := .out19, pattern := outPattern 0x02, mask := outMask 0xFF },
    { mnemonic := "ENC.QUERYDATA", format := .out19, pattern := outPattern 0x04, mask := outMask 0xFF },
    { mnemonic := "ENC.DEVICEID", format := .out19, pattern := outPattern 0x05, mask := outMask 0xFF },
    { mnemonic := "ENC.SLEEP", format := .out19, pattern := outPattern 0x06, mask := outMask 0xFF },
    { mnemonic := "ENC.FIRMWARE", format := .out19, pattern := outPattern 0x07, mask := outMask 0xFF },
    { mnemonic := "ENC.WORKINGPERIOD", format := .out19, pattern := outPattern 0x08, mask := outMask 0xFF },
    { mnemonic := "ENC.RESERVED", format := .out19, pattern := outPattern 0x00, mask := outMask 0x00 } ]

/-- An `IN10` row for one type byte: the start byte and the type byte are in the mask (R57). -/
def typeRow (mnemonic : String) (ty : Byte) : Row :=
  { mnemonic := mnemonic, format := .in10
    pattern := [0xAA, ty] ++ List.replicate 8 0, mask := [0xFF, 0xFF] ++ List.replicate 8 0 }

/-- The `IN10` rows under a parameter: one `DEC.DEVINFO` row for each of its members (R57); the default parameter has
the one row that the table writes. -/
def decRows (cfg : Config) : List Row :=
  [typeRow "DEC.MEAS" 0xC0] ++ cfg.devinfoTypes.map (typeRow "DEC.DEVINFO") ++
  [ { mnemonic := "DEC.UNKNOWN", format := .in10
      pattern := [0xAA, 0x00] ++ List.replicate 8 0, mask := [0xFF, 0x00] ++ List.replicate 8 0 } ]

/-- The rows of single stream bytes and of `RxEnd`. -/
def streamRows : List Row :=
  [ { mnemonic := "RESYNC.START", format := .byte1, pattern := [0xAA], mask := [0xFF] },
    { mnemonic := "RESYNC.SKIP", format := .byte1, pattern := [0x00], mask := [0x00] },
    { mnemonic := "READ_FRAME.BODY", format := .body1, pattern := [0x00], mask := [0x00] },
    { mnemonic := "READ_FRAME.LAST", format := .body1, pattern := [0x00], mask := [0x00] },
    { mnemonic := "RESYNC.END", format := .event, pattern := [], mask := [] },
    { mnemonic := "READ_FRAME.SHORT", format := .event, pattern := [], mask := [] } ]

/-- The opcode table under a parameter (R57). -/
def opcodeTable (cfg : Config) : List Row := encRows ++ decRows cfg ++ streamRows

/-- `F AND mask = match`, byte by byte (R57). -/
def Row.selects (r : Row) (F : List Byte) : Bool :=
  decide (F.length = r.mask.length) && decide (List.zipWith (· &&& ·) F r.mask = r.pattern)

/-- The mnemonics of the rows of a format that some bytes select, in priority order (R57). -/
def rowsSelected (cfg : Config) (fmt : Format) (F : List Byte) : List String :=
  ((opcodeTable cfg).filter (fun r => decide (r.format = fmt) && r.selects F)).map Row.mnemonic

/-- The host's reading of a row's bits (notes/assumptions/9.md): 152 bits are an `OUT19` frame, 80 an `IN10` frame, 8 a
stream byte seen while seeking, 0 the event `RxEnd` while seeking, under the default parameter. -/
def decodeTableWord (nbits w : Nat) : Option Instr :=
  let bytes := tableBytes nbits w
  match nbits with
  | 0 => (decode Config.default (.decoder .seekingStart) bytes).instr?
  | 8 => (decode Config.default (.decoder .seekingStart) bytes).instr?
  | 80 => (decode Config.default (.decoder .decoded) bytes).instr?
  | 152 => (decode Config.default .encoder bytes).instr?
  | _ => none

end Sys2Proof
end

