-- ==== Sys2Proof/Machine/Fetch.lean ====
section
/-! DEFINITION. What the next step does: the operation the state and the next input select, and the state that
operation runs in, with the input consumed (R33, R89). -/

namespace Sys2Proof.Machine

/-- What a step does: run one operation, or a quiet move that no row of the opcode table stands for. -/
inductive Action where
  | run (i : Instr) (s : State)
  | quiet (s : State)
  deriving DecidableEq, Repr

/-- The operation an RX event selects in a stored sequencer state (R89); none in the transient DECODED, in which no
event is consumed (R14). -/
def rxInstr (q : Sequencer) (ev : RxEvent) : Option Instr :=
  match q, ev with
  | .seekingStart, .rxByte b => some (Instr.ofSeekByte b)
  | .seekingStart, .rxEnd => some .resyncEnd
  | .frameBody c, .rxByte b => some (Instr.ofBodyByte c b)
  | .frameBody _, .rxEnd => some .readFrameShort
  | .decoded, _ => none

/-- The effect of one input on a state whose inputs no longer hold it. -/
def actionOf (x : Input) (s : State) : Action :=
  match x with
  | .encReq cmd P => .run (Instr.ofRequest cmd P) s
  | .rx ev =>
    match rxInstr s.seq ev with
    | some i => .run i s
    | none => .quiet s
  | .idle => .quiet (idleEdge s)
  | .reset => .quiet (resetInput s)

/-- The next action: in the transient DECODED the typed decode of `buf` and no input; otherwise the next input; an
edge without an event where there is none (R35). -/
def fetch (s : State) : Action :=
  if s.seq = .decoded then .run (Instr.ofFrame s.cfg s.frame) s
  else
    match s.inputs with
    | [] => .quiet (idleEdge s)
    | x :: rest => actionOf x (s.withInputs rest)

/-- The decoder is put into a stored state if it is in the transient DECODED. -/
def State.settled (s : State) : State :=
  if s.seq = .decoded then s.moveTo .seekingStart else s

/-- The ten bytes of a list as a frame buffer. -/
def bufOfList (F : List Byte) : Vector Byte 10 :=
  Vector.ofFn (fun i : Fin 10 => F.getD i.val 0)

/-- The state in which the next step runs the operation of the given table word (notes/assumptions/9.md): an encoder
request or a stream event at the front of the inputs, or a completed frame in `buf`. -/
def placeWord (s : State) (nbits w : Nat) : State :=
  let F := tableBytes nbits w
  match nbits with
  | 0 => (s.moveTo .seekingStart).withInputs (.rx .rxEnd :: s.inputs)
  | 8 => (s.moveTo .seekingStart).withInputs (.rx (.rxByte (F.getD 0 0)) :: s.inputs)
  | 80 => { s with seq := .decoded, buf := bufOfList F }
  | 152 => s.settled.withInputs (.encReq (F.getD 2 0) ((F.drop 3).take MAX_PAYLOAD) :: s.inputs)
  | _ => s

end Sys2Proof.Machine
end

