-- ==== Sys2Proof/Machine/Step.lean ====
section
/-! DEFINITION. The step: one atomic reaction to one input (R10). -/

namespace Sys2Proof.Machine

/-- One step: the fetched operation is run, or the quiet move is made. -/
def step (s : State) : Host.Outcome State Fault Refusal :=
  match fetch s with
  | .run i t => exec i t
  | .quiet t => .next t

/-- `s` with the operation of a table word placed where `step` takes its next operation. -/
def State.withFetchWord (s : State) (nbits w : Nat) : State :=
  placeWord s nbits w

end Sys2Proof.Machine
end

