-- ==== Sys2Proof/Machine/Errors.lean ====
section
/-! DEFINITION. The error taxonomy: the six conditions, their codes and classes, and which of them a decoder output or
an encoder answer carries (R103, R104, R115). -/

namespace Sys2Proof.Machine

/-- The six conditions of the taxonomy with the information each records (R104). -/
inductive Condition where
  | payloadTooLarge (n : Nat)
  | endOfStream
  | shortRead (k : Fin 9)
  | checksumMismatch
  | badTerminator
  | unknownResponseType
  deriving DecidableEq, Repr

/-- The classes of rule R103. -/
inductive ConditionClass where
  /-- The whole output of its step. -/
  | hard
  /-- A false flag on a result that is delivered normally. -/
  | soft
  /-- A normal result variant. -/
  | notAnError
  deriving DecidableEq, Repr

/-- The codes of rule R104; the code 0 of no condition is `noConditionCode`. -/
def Condition.code : Condition → Nat
  | .payloadTooLarge _ => 1
  | .endOfStream => 2
  | .shortRead _ => 3
  | .checksumMismatch => 4
  | .badTerminator => 5
  | .unknownResponseType => 6

/-- The code 0, "(none)" (R104). -/
abbrev noConditionCode : Nat := 0

/-- The codes a report shows: those of its conditions, or the code of none (R104).  DEDUCED: a report with several
conditions (R115) shows the code of each (notes/assumptions/24.md). -/
def conditionCodes : List Condition → List Nat
  | [] => [noConditionCode]
  | c :: cs => (c :: cs).map Condition.code

/-- The class of a condition (R103). -/
def Condition.cls : Condition → ConditionClass
  | .payloadTooLarge _ => .hard
  | .endOfStream => .hard
  | .shortRead _ => .hard
  | .checksumMismatch => .soft
  | .badTerminator => .soft
  | .unknownResponseType => .notAnError

/-- The conditions a delivered result carries: both soft failures are reported, neither hides the other, and either
may accompany any variant (R111 to R113, R115). -/
def resultConditions (r : Result) : List Condition :=
  (if r.checksum_ok then [] else [.checksumMismatch])
    ++ (if r.terminator_ok then [] else [.badTerminator])
    ++ (match r.variant with
        | .unknown => [.unknownResponseType]
        | .measurement _ _ => []
        | .deviceInfo _ _ _ _ => [])

/-- The conditions of a decoder step's output. -/
def DecOut.conditions : DecOut → List Condition
  | .none => []
  | .frame r => resultConditions r
  | .err .endOfStream => [.endOfStream]
  | .err (.shortRead k) => [.shortRead k]

/-- The condition of an encoder answer. -/
def EncOut.conditions : EncOut → List Condition
  | .none => []
  | .txFrame _ => []
  | .payloadTooLarge n => [.payloadTooLarge n]

/-- The codes of a decoder step's output (R104). -/
def DecOut.codes (o : DecOut) : List Nat := conditionCodes o.conditions

/-- The codes of an encoder answer (R104). -/
def EncOut.codes (o : EncOut) : List Nat := conditionCodes o.conditions

end Sys2Proof.Machine
end

