-- ==== Sys2Proof/Machine/Streams.lean ====
section
/-! DEFINITION. The event-level view of the decoder: the step function of rule R89 as the spec tabulates it, the source's
stream operations of rule R90 as functions of the stream, and the script notation of rule R55.  The machine does not
call these; the statements say that its runs agree with them. -/

namespace Sys2Proof.Machine

/-- The two stored values of `dstate` (R13). -/
inductive DState where
  | seekingStart
  | frameBody
  deriving DecidableEq, Repr

/-- `dstate` on one bit (R13, R20). -/
def DState.bit : DState → BitVec 1
  | .seekingStart => 0
  | .frameBody => 1

/-- The stored pair `(dstate, cnt)` of a sequencer; the transient DECODED is no stored value (R14). -/
def storedPair : Sequencer → Option (DState × Fin 9)
  | .seekingStart => some (.seekingStart, 0)
  | .frameBody c => some (.frameBody, c)
  | .decoded => none

/-- The decoder's state triple of rule R11. -/
structure Triple where
  dstate : DState
  cnt    : Fin 9
  buf    : Vector Byte 10
  deriving DecidableEq, Repr

/-- The decoder step function, the table of rule R89. -/
def decoderStep (cfg : Config) (d : Triple) (ev : RxEvent) : Triple × DecOut :=
  match d.dstate, ev with
  | .seekingStart, .rxByte b =>
    if b ≠ START then ({ d with dstate := .seekingStart, cnt := 0 }, .none)
    else ({ dstate := .frameBody, cnt := 0, buf := d.buf.set 0 0xAA }, .none)
  | .seekingStart, .rxEnd => ({ d with dstate := .seekingStart, cnt := 0 }, .err .endOfStream)
  | .frameBody, .rxByte b =>
    if h : d.cnt.val < 8 then
      ({ dstate := .frameBody, cnt := ⟨d.cnt.val + 1, Nat.succ_lt_succ h⟩,
         buf := d.buf.set (d.cnt.val + 1) b (Nat.succ_lt_succ d.cnt.isLt) }, .none)
    else
      ({ dstate := .seekingStart, cnt := 0, buf := d.buf.set 9 b },
        .frame (decodeFrame cfg (frameOf (d.buf.set 9 b))))
  | .frameBody, .rxEnd => ({ d with dstate := .seekingStart, cnt := 0 }, .err (.shortRead d.cnt))

/-- What `resync(stream)` comes to, with the events it leaves (R90). -/
inductive Resynced where
  /-- "returns the start byte found" -/
  | start (rest : List RxEvent)
  | endOfStream (rest : List RxEvent)
  /-- The events offered so far are used up: the read blocks (R35). -/
  | waiting
  deriving DecidableEq, Repr

/-- `resync(stream)` (R90): one event at a time up to the first start byte or the end of the stream. -/
def resync : List RxEvent → Resynced
  | [] => .waiting
  | .rxEnd :: rest => .endOfStream rest
  | .rxByte b :: rest => if b = START then .start rest else resync rest

/-- What `read_frame(stream)` comes to, with the events it leaves (R90). -/
inductive ReadFrame where
  /-- The ten bytes of the frame. -/
  | frame (F : List Byte) (rest : List RxEvent)
  | endOfStream (rest : List RxEvent)
  /-- The stream ended after the start byte with `k` body bytes received. -/
  | shortRead (k : Nat) (rest : List RxEvent)
  | waiting
  deriving DecidableEq, Repr

/-- The body read: `need` more bytes after the bytes `got` (R34: however they are grouped, only the end of the stream
cuts them short). -/
def readBody : (need : Nat) → (got : List Byte) → List RxEvent → ReadFrame
  | 0, got, rest => .frame got rest
  | _ + 1, _, [] => .waiting
  | _ + 1, got, .rxEnd :: rest => .shortRead (got.length - 1) rest
  | n + 1, got, .rxByte b :: rest => readBody n (got ++ [b]) rest

/-- `read_frame(stream)` (R90): a resync, then exactly nine more bytes. -/
def readFrame (evs : List RxEvent) : ReadFrame :=
  match resync evs with
  | .start rest => readBody BODY_LEN [START] rest
  | .endOfStream rest => .endOfStream rest
  | .waiting => .waiting

/-- One item of the script notation (R55). -/
inductive ScriptItem where
  | enc (cmd : Byte) (P : List Byte)
  | rx (bs : List Byte)
  | fin
  | reset
  deriving DecidableEq, Repr

/-- The inputs an item stands for: one RX event a byte, in the order written (R55). -/
def ScriptItem.inputs : ScriptItem → List Input
  | .enc cmd P => [.encReq cmd P]
  | .rx bs => bs.map (fun b => .rx (.rxByte b))
  | .fin => [.rx .rxEnd]
  | .reset => [.reset]

end Sys2Proof.Machine
end

