-- ==== Sys2Proof/Machine/Ports.lean ====
section
/-! DEFINITION. The port wrapping: the encoder's ports (R78), the decoder's (R22) and its result ports (R101).
A port that the spec calls meaningful only at some times is an Option, and none at all others (R28, R129). -/

namespace Sys2Proof.Machine

/-- The input ports of the encoder (R78). -/
structure EncPortIn where
  enc_cmd  : Byte
  enc_len  : BitVec 4
  enc_data : BitVec 96
  deriving DecidableEq, Repr

/-- The payload the ports carry: lanes at `enc_len` and above are ignored (R78).  There are twelve lanes: at a length
of 13 to 15 the further bytes read as zero and only their number matters. -/
def EncPortIn.payload (p : EncPortIn) : List Byte :=
  (List.range p.enc_len.toNat).map (fun i => lane p.enc_data i)

/-- The output ports of the encoder (R78). -/
structure EncPortOut where
  enc_ok            : Bool
  enc_err_too_large : Bool
  enc_frame         : BitVec 152
  deriving DecidableEq, Repr

/-- The encoder's ports are combinational: functions of the inputs of the same moment.  A refused request presents
zero lanes, which no statement rests on (R78, U8). -/
def encPorts (p : EncPortIn) : EncPortOut :=
  match encodeFrame p.enc_cmd p.payload with
  | .txFrame F => { enc_ok := true, enc_err_too_large := false, enc_frame := BitVec.ofNat 152 (lanesValue F) }
  | .payloadTooLarge _ => { enc_ok := false, enc_err_too_large := true, enc_frame := 0 }
  | .none => { enc_ok := false, enc_err_too_large := true, enc_frame := 0 }

/-- The input ports of the decoder at one clock edge (R22). -/
structure DecPortIn where
  rst      : Bool
  rx_valid : Bool
  rx_data  : Byte
  rx_eos   : Bool
  deriving DecidableEq, Repr

/-- What an edge is to the event-level machine: reset first, then the end of the stream, then a byte; an event offered
with a reset, and a byte offered with the end of the stream, are lost (R22, R115, R134). -/
def DecPortIn.input (p : DecPortIn) : Input :=
  if p.rst then .reset
  else if p.rx_eos then .rx .rxEnd
  else if p.rx_valid then .rx (.rxByte p.rx_data)
  else .idle

/-- One clock edge: the input it carries is taken before the inputs still to come. -/
def clockEdge (p : DecPortIn) (s : State) : Host.Outcome State Fault Refusal :=
  step (s.withInputs (p.input :: s.inputs))

/-- The result ports (R101): all functions of `buf`. -/
structure ResPorts where
  res_kind      : BitVec 2
  checksum_ok   : Bool
  terminator_ok : Bool
  res_type      : Byte
  res_payload   : BitVec 48
  res_checksum  : Byte
  res_term      : Byte
  pm25_x10      : Half
  pm10_x10      : Half
  year          : Byte
  month         : Byte
  day           : Byte
  device_id     : Half
  deriving DecidableEq, Repr

/-- The result ports of a frame: a typed field outside its kind is driven with the stated function of `buf` and is no
part of the result (R101). -/
def resPorts (cfg : Config) (f : InFrame) : ResPorts :=
  { res_kind := (decodeFrame cfg f).variant.code
    checksum_ok := checksumOk f
    terminator_ok := terminatorOk f
    res_type := f.type
    res_payload := BitVec.ofNat 48 (lanesValue f.payload.bytes)
    res_checksum := f.checksum
    res_term := f.term
    pm25_x10 := le16 f.payload.d0 f.payload.d1
    pm10_x10 := le16 f.payload.d2 f.payload.d3
    year := f.payload.d0
    month := f.payload.d1
    day := f.payload.d2
    device_id := le16 f.payload.d3 f.payload.d4 }

/-- The output ports of the decoder during the cycle after its latest edge (R22). -/
structure DecPortOut where
  rx_ready      : Bool
  frame_done    : Bool
  err_eos       : Bool
  err_short     : Bool
  err_short_cnt : Option (BitVec 4)
  dec_state     : Option (BitVec 1)
  dec_cnt       : Option (BitVec 4)
  result        : Option ResPorts
  deriving DecidableEq, Repr

/-- The decoder's output ports as functions of the state: the reports of its latest step, the status view of the
sequencer (R20), and the result while `frame_done` is 1. -/
def decPorts (s : State) : DecPortOut :=
  { rx_ready := true
    frame_done := match s.decOut with | .frame _ => true | .none => false | .err _ => false
    err_eos := decide (s.decOut = .err .endOfStream)
    err_short := match s.decOut with
      | .err (.shortRead _) => true | .err .endOfStream => false | .none => false | .frame _ => false
    err_short_cnt := match s.decOut with
      | .err (.shortRead k) => some (BitVec.ofNat 4 k.val) | .err .endOfStream => none | .none => none | .frame _ => none
    dec_state := (storedPair s.seq).map (fun d => d.1.bit)
    dec_cnt := (storedPair s.seq).map (fun d => BitVec.ofNat 4 d.2.val)
    result := match s.decOut with
      | .frame _ => some (resPorts s.cfg s.frame) | .none => none | .err _ => none }

end Sys2Proof.Machine
end

