-- ==== Sys2Proof/Machine/System.lean ====
section
/-! DEFINITION. Several instances: the state of a system is the product of its instances' states (R7, R30, R118). -/

namespace Sys2Proof.Machine

/-- A step of instance `k` of a system reads and writes only that instance's own state (R30).  Where there is no
instance `k` there is no step. -/
def stepInstance (k : Nat) (sys : List State) : Host.Outcome (List State) Fault Refusal :=
  match sys[k]? with
  | none => .next sys
  | some s =>
    match step s with
    | .next t => .next (sys.set k t)
    | .fault f => .fault f
    | .refused r => .refused r

end Sys2Proof.Machine
end

