-- ==== Sys2Proof/Safety.lean ====
section
/-! DEFINITION. What counts as a safe run, and the relations the statements use: the state invariant (R18), and
agreement of two states up to buffer bytes the current frame has not written (R16, R25). -/

namespace Sys2Proof.Machine

/-- A sequence is a frame of format `OUT19` with its checksum right (R45). -/
def IsOut19 (F : List Byte) : Prop :=
  ∃ cmd data, data.length = MAX_PAYLOAD ∧ F = outFrame cmd data

/-- A run of `n` steps, the host's own run of the machine. -/
def steps (n : Nat) (s : State) : Host.Outcome State Fault Refusal :=
  Sys2Proof.core.run n s

/-- The outbound frame of a command code and an unpadded payload, with the checksum as the rules R70 to R75 give it for
each form: `(sum(P) + adj) mod 256`. -/
def formFrame (code : Byte) (adj : Nat) (P : List Byte) : List Byte :=
  [0xAA, 0xB4, code] ++ P ++ List.replicate (12 - P.length) 0
    ++ [0xFF, 0xFF, BitVec.ofNat 8 ((sumBytes P + adj) % 256), 0xAB]

/-- The decoder's own inputs of a sequence: everything but the encoder requests. -/
def decoderInputs (xs : List Input) : List Input :=
  xs.filter (fun x => match x with | .encReq _ _ => false | .rx _ => true | .idle => true | .reset => true)

/-- The answer the encoder shows after the requests of a sequence: that of the last request, or the one before them. -/
def lastAnswer (before : EncOut) : List Input → EncOut
  | [] => before
  | .encReq cmd P :: xs => lastAnswer (encodeFrame cmd P) xs
  | .rx _ :: xs => lastAnswer before xs
  | .idle :: xs => lastAnswer before xs
  | .reset :: xs => lastAnswer before xs

/-- The state invariant.  Rule R18 (a) is part of the type `Sequencer`; (b) is `start_held`, its history part being a
statement about runs. -/
structure State.Inv (s : State) : Prop where
  /-- DECODED is never a stored value (R14). -/
  stored : s.seq ≠ .decoded
  /-- In a frame body `buf[0]` holds the start byte (R18 (b)). -/
  start_held : ∀ c, s.seq = .frameBody c → s.buf[0] = START
  /-- A frame handed out is an `OUT19` frame (R45, R67). -/
  tx_formed : ∀ F, s.encOut = .txFrame F → IsOut19 F
  /-- A refused request was too long (R68). -/
  refused_long : ∀ n, s.encOut = .payloadTooLarge n → MAX_PAYLOAD < n
  /-- A delivered result is the decode of the frame in `buf`, which begins with the start byte (R54, R85). -/
  result_of_buf : ∀ r, s.decOut = .frame r →
    s.seq = .seekingStart ∧ s.buf[0] = START ∧ r = decodeFrame s.cfg s.frame
  /-- The parameter is a set of bytes without `MEAS_TYPE` (R8). -/
  cfg_wf : s.cfg.wf = true

/-- Two states that agree in everything but buffer bytes that no rule will read before they are written (R16). -/
structure State.AgreeOnWritten (s t : State) : Prop where
  seq : s.seq = t.seq
  stored : s.seq ≠ .decoded
  decOut : s.decOut = t.decOut
  encOut : s.encOut = t.encOut
  inputs : s.inputs = t.inputs
  cfg : s.cfg = t.cfg
  resets : s.resets = t.resets
  written : ∀ c, s.seq = .frameBody c → ∀ i : Fin 10, i.val ≤ c.val → s.buf[i] = t.buf[i]

/-- A safe run: the machine takes any number of steps without a fault or a refusal (R92). -/
def NeverStops (s : State) : Prop :=
  ∀ n, ∃ t, steps n s = .next t

end Sys2Proof.Machine
end

