-- ==== Sys2Proof/Certificates/Slice0/Obligations.lean ====
section
/-! DEFINITION. The statements for the provers.  Each docstring names the rule of spec/ it formalises, or says that it
is derived and from what. -/

open Sys2Proof Sys2Proof.Machine

/-! ## Encoder -/

/-- R67, R68: ENCODE of any command byte and any payload, as the frame the pseudocode builds or the error, and
nothing else of the state changes. -/
def Obligations.EncodeBuildsFrameOrRefuses : Prop :=
  ∀ (s : State) (cmd : Byte) (P : List Byte),
    (P.length ≤ 12 →
      exec (Instr.ofRequest cmd P) s = .next { s with
        encOut := .txFrame ([0xAA, 0xB4, cmd] ++ (P ++ List.replicate (12 - P.length) 0)
          ++ [0xFF, 0xFF, BitVec.ofInt 8 (((sumBytes P : Int) + (cmd.toNat : Int) - 2) % 256), 0xAB]) }) ∧
    (12 < P.length →
      exec (Instr.ofRequest cmd P) s = .next { s with encOut := .payloadTooLarge P.length })

/-- R70 to R75: the six named command forms, each with its code and its checksum formula, and the refusal of a
payload that is too long. -/
def Obligations.NamedCommandForms : Prop :=
  ∀ (s : State) (P : List Byte),
    (P.length ≤ 12 →
      exec (.encSetmode P) s = .next { s with encOut := .txFrame (formFrame 2 0 P) } ∧
      exec (.encQuerydata P) s = .next { s with encOut := .txFrame (formFrame 4 2 P) } ∧
      exec (.encDeviceid P) s = .next { s with encOut := .txFrame (formFrame 5 3 P) } ∧
      exec (.encSleep P) s = .next { s with encOut := .txFrame (formFrame 6 4 P) } ∧
      exec (.encFirmware P) s = .next { s with encOut := .txFrame (formFrame 7 5 P) } ∧
      exec (.encWorkingperiod P) s = .next { s with encOut := .txFrame (formFrame 8 6 P) }) ∧
    (12 < P.length →
      exec (.encSetmode P) s = .next { s with encOut := .payloadTooLarge P.length } ∧
      exec (.encQuerydata P) s = .next { s with encOut := .payloadTooLarge P.length } ∧
      exec (.encDeviceid P) s = .next { s with encOut := .payloadTooLarge P.length } ∧
      exec (.encSleep P) s = .next { s with encOut := .payloadTooLarge P.length } ∧
      exec (.encFirmware P) s = .next { s with encOut := .payloadTooLarge P.length } ∧
      exec (.encWorkingperiod P) s = .next { s with encOut := .payloadTooLarge P.length })

/-- Derived (R77, the spec's own decision D10): a command byte without a name is encoded by the same rule, with the
floored modulus for codes 0 and 1. -/
def Obligations.ReservedCommandForm : Prop :=
  ∀ (s : State) (cmd : Byte) (P : List Byte),
    cmd ∉ ([2, 4, 5, 6, 7, 8] : List Byte) →
    Instr.ofRequest cmd P = .encReserved cmd P ∧
    (P.length ≤ 12 →
      exec (.encReserved cmd P) s = .next { s with encOut := .txFrame (formFrame cmd (cmd.toNat + 254) P) }) ∧
    (12 < P.length →
      exec (.encReserved cmd P) s = .next { s with encOut := .payloadTooLarge P.length })

/-- Derived (R69 (a), (d)): every frame produced has 19 bytes and the five constants at their offsets, and its
command byte is the request's. -/
def Obligations.FrameLengthAndConstants : Prop :=
  ∀ (cmd : Byte) (P F : List Byte), encodeFrame cmd P = .txFrame F →
    F.length = 19 ∧ F[0]? = some 0xAA ∧ F[1]? = some 0xB4 ∧ F[2]? = some cmd ∧
    F[15]? = some 0xFF ∧ F[16]? = some 0xFF ∧ F[18]? = some 0xAB

/-- Derived (R60, an inference the spec marks as its own, and R65, read by its decision D20): the checksum byte is
the sum of the fifteen bytes at offsets 2..16, and a recomputation over the frame's own command and payload bytes
gives it again. -/
def Obligations.OutboundChecksumRecomputes : Prop :=
  ∀ (cmd : Byte) (P F : List Byte), encodeFrame cmd P = .txFrame F →
    F[17]? = some (BitVec.ofNat 8 (sumBytes ((F.drop 2).take 15))) ∧
    F[17]? = some (chkOut (F.getD 2 0) ((F.drop 3).take 12))

/-- Derived (R50, R69 (g)): payloads that differ only by trailing zero bytes give the same frame. -/
def Obligations.TrailingZerosInvisible : Prop :=
  ∀ (cmd : Byte) (P : List Byte) (k : Nat), P.length + k ≤ 12 →
    encodeFrame cmd (P ++ List.replicate k 0) = encodeFrame cmd P

/-- R58 and R66 (derived): both checksums are 8-bit accumulations that drop every carry, `0xFE` standing for minus
two, and neither sees the order of the summed bytes. -/
def Obligations.ChecksumIsByteAccumulation : Prop :=
  (∀ (cmd : Byte) (data : List Byte), chkOut cmd data = data.foldl (· + ·) cmd + 0xFE) ∧
  (∀ (cmd : Byte) (data data' : List Byte), data.Perm data' → chkOut cmd data = chkOut cmd data') ∧
  (∀ f : InFrame, chkIn f = f.type + f.payload.d0 + f.payload.d1 + f.payload.d2 + f.payload.d3 + f.payload.d4
    + f.payload.d5)

/-- Derived (R12, R40 (d)): encoder requests and decoder inputs may interleave in any way. A run of the whole
sequence gives the decoder what the decoder's inputs alone give it, and the encoder what its requests alone give it.
That the latest answer is kept until the next request, and over a reset, is the model's choice
(notes/assumptions/3.md); so is that both runs find the same free bytes in `buf` after a reset
(notes/assumptions/5.md). -/
def Obligations.AgentsDoNotInterfere : Prop :=
  ∀ (s : State) (xs : List Input), s.seq ≠ .decoded → s.inputs = xs →
    ∃ u, steps (decoderInputs xs).length (s.withInputs (decoderInputs xs)) = .next u ∧
      u.encOut = s.encOut ∧
      steps xs.length s = .next { u with encOut := lastAnswer s.encOut xs }

/-! ## Checksum and flags of the decoder -/

/-- R61: the inbound checksum sums the type byte and the six payload bytes, frame offsets 1 to 7, modulo 256. -/
def Obligations.InboundChecksumFormula : Prop :=
  (∀ f : InFrame, (chkIn f).toNat =
    (f.type.toNat + f.payload.d0.toNat + f.payload.d1.toNat + f.payload.d2.toNat + f.payload.d3.toNat
      + f.payload.d4.toNat + f.payload.d5.toNat) % 256) ∧
  (∀ buf : Vector Byte 10, (chkIn (frameOf buf)).toNat =
    (buf[1].toNat + buf[2].toNat + buf[3].toNat + buf[4].toNat + buf[5].toNat + buf[6].toNat + buf[7].toNat) % 256)

/-- R64 (derived): whatever type and payload a frame has, all four combinations of the two flags occur, and checksum
and terminator bytes play no part in the rest of the result. -/
def Obligations.FlagsIndependentOfDecode : Prop :=
  ∀ (cfg : Config) (st ty : Byte) (d : InPayload),
    (∀ a b : Bool, ∃ ck tm,
      (decodeFrame cfg ⟨st, ty, d, ck, tm⟩).checksum_ok = a ∧ (decodeFrame cfg ⟨st, ty, d, ck, tm⟩).terminator_ok = b) ∧
    (∀ ck tm ck' tm',
      (decodeFrame cfg ⟨st, ty, d, ck, tm⟩).variant = (decodeFrame cfg ⟨st, ty, d, ck', tm'⟩).variant ∧
      (decodeFrame cfg ⟨st, ty, d, ck, tm⟩).type = ty ∧ (decodeFrame cfg ⟨st, ty, d, ck, tm⟩).payload = d)

/-- R111, R112: a completing step with any received checksum byte and any terminator byte delivers the variant, type
and payload of a frame that passes both checks and leaves the same state but for those two bytes of `buf`; each flag
is false exactly when its own byte is wrong, and a tenth byte `0xAA` starts nothing. -/
def Obligations.SoftFailuresChangeOnlyFlags : Prop :=
  ∀ (s : State) (ck b : Byte), s.seq = .frameBody 8 →
    ∃ r r₀ : Result,
      exec (.readFrameLast b) { s with buf := s.buf.set 8 ck } = .next { s with
        seq := .seekingStart, buf := (s.buf.set 8 ck).set 9 b, decOut := .frame r } ∧
      exec (.readFrameLast 0xAB) { s with buf := s.buf.set 8 (chkIn (frameOf s.buf)) } = .next { s with
        seq := .seekingStart, buf := (s.buf.set 8 (chkIn (frameOf s.buf))).set 9 0xAB, decOut := .frame r₀ } ∧
      r₀.checksum_ok = true ∧ r₀.terminator_ok = true ∧
      (r.checksum_ok = false ↔ chkIn (frameOf s.buf) ≠ ck) ∧ (r.terminator_ok = false ↔ b ≠ 0xAB) ∧
      r.variant = r₀.variant ∧ r.type = r₀.type ∧ r.payload = r₀.payload

/-! ## RESYNC and READ_FRAME -/

/-- R81: any byte but the start byte is skipped while seeking; the machine step consumes it and changes nothing
else. -/
def Obligations.ResyncSkipStep : Prop :=
  ∀ (s : State) (b : Byte) (rest : List Input), s.seq = .seekingStart → b ≠ 0xAA →
    exec (.resyncSkip b) s = .next { s with decOut := .none } ∧
    (s.inputs = .rx (.rxByte b) :: rest → step s = .next { s with decOut := .none, inputs := rest })

/-- R82: the start byte is stored at `buf[0]` and the frame body begins with `cnt = 0`. -/
def Obligations.ResyncStartStep : Prop :=
  ∀ (s : State) (rest : List Input), s.seq = .seekingStart →
    exec .resyncStart s = .next { s with seq := .frameBody 0, buf := s.buf.set 0 0xAA, decOut := .none } ∧
    (s.inputs = .rx (.rxByte 0xAA) :: rest →
      step s = .next { s with seq := .frameBody 0, buf := s.buf.set 0 0xAA, decOut := .none, inputs := rest })

/-- Derived (R83; the state after the error is the spec's own decision D5): the end of the stream while seeking
gives `EndOfStream` and leaves the state as it was. -/
def Obligations.ResyncEndStep : Prop :=
  ∀ (s : State) (rest : List Input), s.seq = .seekingStart →
    exec .resyncEnd s = .next { s with decOut := .err .endOfStream } ∧
    (s.inputs = .rx .rxEnd :: rest → step s = .next { s with decOut := .err .endOfStream, inputs := rest })

/-- R84: a byte in a frame body with `cnt = c` at most 7 goes to `buf[c + 1]`, whatever it is, and `cnt` becomes `c
+ 1`. -/
def Obligations.ReadBodyStep : Prop :=
  ∀ (s : State) (b : Byte) (rest : List Input) (c : Fin 9) (h : c.val < 8), s.seq = .frameBody c →
    exec (.readFrameBody b) s = .next { s with
      seq := .frameBody ⟨c.val + 1, by omega⟩, buf := s.buf.set (c.val + 1) b, decOut := .none } ∧
    (s.inputs = .rx (.rxByte b) :: rest → step s = .next { s with
      seq := .frameBody ⟨c.val + 1, by omega⟩, buf := s.buf.set (c.val + 1) b, decOut := .none, inputs := rest })

/-- R85, R62, R63: the ninth body byte completes the frame whatever it is: it goes to `buf[9]`, the two flags are
computed over the buffer after that write, and the decode of the buffer is delivered in this very step. -/
def Obligations.ReadLastStep : Prop :=
  ∀ (s : State) (b : Byte) (rest : List Input), s.seq = .frameBody 8 →
    ∃ r : Result,
      r = decodeFrame s.cfg (frameOf (s.buf.set 9 b)) ∧
      (r.checksum_ok = true ↔
        (s.buf[1].toNat + s.buf[2].toNat + s.buf[3].toNat + s.buf[4].toNat + s.buf[5].toNat + s.buf[6].toNat
          + s.buf[7].toNat) % 256 = s.buf[8].toNat) ∧
      (r.terminator_ok = true ↔ b = 0xAB) ∧
      exec (.readFrameLast b) s = .next { s with
        seq := .seekingStart, buf := s.buf.set 9 b, decOut := .frame r } ∧
      (s.inputs = .rx (.rxByte b) :: rest → step s = .next { s with
        seq := .seekingStart, buf := s.buf.set 9 b, decOut := .frame r, inputs := rest })

/-- Derived (R86; the count reported and the state after the error are the spec's own decisions D5, D6): the end of
the stream in a frame body gives `ShortRead(cnt)` for every `cnt`, and the decoder seeks again with `buf` unchanged. -/
def Obligations.ReadShortStep : Prop :=
  ∀ (s : State) (rest : List Input) (c : Fin 9), s.seq = .frameBody c →
    exec .readFrameShort s = .next { s with seq := .seekingStart, decOut := .err (.shortRead c) } ∧
    (s.inputs = .rx .rxEnd :: rest →
      step s = .next { s with seq := .seekingStart, decOut := .err (.shortRead c), inputs := rest })

/-- R14 (derived): the completing step is the write of the ninth byte followed by the internal step that leaves
DECODED by running the `DEC.*` row the completed frame selects. -/
def Obligations.CompletingStepRunsDecRow : Prop :=
  ∀ (s : State) (b : Byte), s.seq = .frameBody 8 →
    exec (.readFrameLast b) s =
      exec (Instr.ofFrame s.cfg (frameOf (s.buf.set 9 b))) { s with seq := .decoded, buf := s.buf.set 9 b }

/-! ## DECODE -/

/-- Derived (R95, R14, R85; the exact tenths are the spec's own decision D12 of R98, notes/assumptions/16.md): a
completed frame of type `0xC0` selects `DEC.MEAS`; its record holds two little-endian unsigned values at
payload offsets 0..1 and 2..3, in tenths; `d4` and `d5` enter the checksum only. That the row is run in a stored
DECODED, on operands of its own, and ends in seeking is the model's reading of R14 (notes/assumptions/7.md). -/
def Obligations.MeasurementRecord : Prop :=
  (∀ (cfg : Config) (buf : Vector Byte 10), buf[1] = 0xC0 →
    Instr.ofFrame cfg (frameOf buf) = .decMeas ⟨buf[2], buf[3], buf[4], buf[5], buf[6], buf[7]⟩ buf[8] buf[9]) ∧
  ∀ (s : State) (d : InPayload) (ck tm : Byte), s.seq = .decoded →
    exec (.decMeas d ck tm) s = .next { s with
      seq := .seekingStart
      decOut := .frame (Result.mk (.measurement (BitVec.ofNat 16 (d.d0.toNat + 256 * d.d1.toNat))
          (BitVec.ofNat 16 (d.d2.toNat + 256 * d.d3.toNat)))
        (decide (0xC0 + d.d0 + d.d1 + d.d2 + d.d3 + d.d4 + d.d5 = ck)) (decide (tm = 0xAB)) 0xC0 d) } ∧
    pmValue (BitVec.ofNat 16 (d.d0.toNat + 256 * d.d1.toNat)) = ((d.d0.toNat + 256 * d.d1.toNat : Nat) : Rat) / 10 ∧
    pmValue (BitVec.ofNat 16 (d.d2.toNat + 256 * d.d3.toNat)) = ((d.d2.toNat + 256 * d.d3.toNat : Nat) : Rat) / 10

/-- Derived (R96, R14, R85): a completed frame whose type is in the parameter, and not `0xC0`, selects `DEC.DEVINFO`; its record holds
three raw date bytes and the device ID at payload offsets 3..4; `d5` enters the checksum only. That the row is run in
a stored DECODED, on operands of its own, and ends in seeking is the model's reading of R14 (notes/assumptions/7.md). -/
def Obligations.DeviceInfoRecord : Prop :=
  (∀ (cfg : Config) (buf : Vector Byte 10), buf[1] ≠ 0xC0 → buf[1] ∈ cfg.devinfoTypes →
    Instr.ofFrame cfg (frameOf buf) =
      .decDevinfo buf[1] ⟨buf[2], buf[3], buf[4], buf[5], buf[6], buf[7]⟩ buf[8] buf[9]) ∧
  ∀ (s : State) (ty : Byte) (d : InPayload) (ck tm : Byte), s.seq = .decoded →
    exec (.decDevinfo ty d ck tm) s = .next { s with
      seq := .seekingStart
      decOut := .frame (Result.mk (.deviceInfo d.d0 d.d1 d.d2
          (BitVec.ofNat 16 (d.d3.toNat + 256 * d.d4.toNat)))
        (decide (ty + d.d0 + d.d1 + d.d2 + d.d3 + d.d4 + d.d5 = ck)) (decide (tm = 0xAB)) ty d) }

/-- Derived (R97, R14, R85): a completed frame of any other type selects `DEC.UNKNOWN`, the Unknown result with the
raw type and payload, not an error. That the row is run in a stored DECODED, on operands of its own, and ends in
seeking is the model's reading of R14 (notes/assumptions/7.md). -/
def Obligations.UnknownRecord : Prop :=
  (∀ (cfg : Config) (buf : Vector Byte 10), buf[1] ≠ 0xC0 → buf[1] ∉ cfg.devinfoTypes →
    Instr.ofFrame cfg (frameOf buf) =
      .decUnknown buf[1] ⟨buf[2], buf[3], buf[4], buf[5], buf[6], buf[7]⟩ buf[8] buf[9]) ∧
  ∀ (s : State) (ty : Byte) (d : InPayload) (ck tm : Byte), s.seq = .decoded →
    exec (.decUnknown ty d ck tm) s = .next { s with
      seq := .seekingStart
      decOut := .frame (Result.mk .unknown
        (decide (ty + d.d0 + d.d1 + d.d2 + d.d3 + d.d4 + d.d5 = ck)) (decide (tm = 0xAB)) ty d) }

/-- Derived (R94, R99, R14, R85): the type byte alone selects the row, `0xC0` first and then the parameter; running the selected row
delivers DECODE of the frame, for every frame and every parameter, even a badly chosen one, with the two flags, the
raw type and the raw payload attached in every case. That the row is run in a stored DECODED and ends in seeking is
the model's reading of R14 (notes/assumptions/7.md). -/
def Obligations.DispatchByTypeByte : Prop :=
  ∀ (cfg : Config) (f : InFrame),
    (f.type = 0xC0 → Instr.ofFrame cfg f = .decMeas f.payload f.checksum f.term) ∧
    (f.type ≠ 0xC0 → f.type ∈ cfg.devinfoTypes →
      Instr.ofFrame cfg f = .decDevinfo f.type f.payload f.checksum f.term) ∧
    (f.type ≠ 0xC0 → f.type ∉ cfg.devinfoTypes →
      Instr.ofFrame cfg f = .decUnknown f.type f.payload f.checksum f.term) ∧
    (∀ s : State, s.seq = .decoded → exec (Instr.ofFrame cfg f) s =
      .next { s with seq := .seekingStart, decOut := .frame (decodeFrame cfg f) }) ∧
    ((decodeFrame cfg f).checksum_ok = true ↔ chkIn f = f.checksum) ∧
    ((decodeFrame cfg f).terminator_ok = true ↔ f.term = 0xAB) ∧
    (decodeFrame cfg f).type = f.type ∧ (decodeFrame cfg f).payload = f.payload

/-- Derived (R49; the result ports are R101 with the spec's own decisions D13, D25, the variants and the raw date bytes
R94 to R96): a 16-bit field is its low byte plus 256 times its high byte, unsigned; the three fields and where they lie
in `buf`. That a port outside its kind has a value in the model, its function of `buf`, is notes/assumptions/12.md. -/
def Obligations.FieldsAreLittleEndian : Prop :=
  (∀ lo hi : Byte, (le16 lo hi).toNat = lo.toNat + 256 * hi.toNat) ∧
  (∀ (cfg : Config) (buf : Vector Byte 10),
    (resPorts cfg (frameOf buf)).pm25_x10.toNat = buf[2].toNat + 256 * buf[3].toNat ∧
    (resPorts cfg (frameOf buf)).pm10_x10.toNat = buf[4].toNat + 256 * buf[5].toNat ∧
    (resPorts cfg (frameOf buf)).device_id.toNat = buf[5].toNat + 256 * buf[6].toNat) ∧
  (∀ (cfg : Config) (buf : Vector Byte 10),
    (buf[1] = 0xC0 → (decodeFrame cfg (frameOf buf)).variant =
      .measurement (resPorts cfg (frameOf buf)).pm25_x10 (resPorts cfg (frameOf buf)).pm10_x10) ∧
    (buf[1] ≠ 0xC0 → buf[1] ∈ cfg.devinfoTypes → (decodeFrame cfg (frameOf buf)).variant =
      .deviceInfo buf[2] buf[3] buf[4] (resPorts cfg (frameOf buf)).device_id))

/-- Derived (R98, the spec's own decision D12): a PM value is the exact tenth of its raw integer and lies in 0.0 to
6553.5. -/
def Obligations.PmValueIsExactTenth : Prop :=
  ∀ raw : Half, pmValue raw * 10 = (raw.toNat : Rat) ∧ 0 ≤ pmValue raw ∧ pmValue raw ≤ 65535 / 10

/-! ## The whole step -/

/-- Derived (R89, which the spec infers from R81 to R86): on every stored state and every event the machine's step
is the decoder step function of the table. -/
def Obligations.StepIsDecoderStepFunction : Prop :=
  ∀ (s : State) (d : DState) (c : Fin 9) (ev : RxEvent) (rest : List Input),
    storedPair s.seq = some (d, c) → s.inputs = .rx ev :: rest →
    (d = .seekingStart → c = 0) ∧
    ∃ t, step s = .next t ∧
      storedPair t.seq = some ((decoderStep s.cfg ⟨d, c, s.buf⟩ ev).1.dstate, (decoderStep s.cfg ⟨d, c, s.buf⟩ ev).1.cnt) ∧
      t.buf = (decoderStep s.cfg ⟨d, c, s.buf⟩ ev).1.buf ∧
      t.decOut = (decoderStep s.cfg ⟨d, c, s.buf⟩ ev).2 ∧
      t.inputs = rest ∧ t.encOut = s.encOut ∧ t.cfg = s.cfg ∧ t.resets = s.resets

/-- R92 (derived): from every state the step answers a next state, and a run of any length never stops. -/
def Obligations.StepNeverStops : Prop :=
  (∀ s : State, ∃ t, step s = .next t) ∧ ∀ s : State, NeverStops s

/-- Derived from R81 to R86, R94 and R67: an operation runs exactly where it is selected, and everywhere else it
stops with the model's `notSelected`. -/
def Obligations.OperationsRunWhereSelected : Prop :=
  ∀ (i : Instr) (s : State),
    ((i.selectedIn .encoder = true ∨ i.selectedIn (.decoder s.seq) = true) → ∃ t, exec i s = .next t) ∧
    (i.selectedIn .encoder = false → i.selectedIn (.decoder s.seq) = false → exec i s = .fault .notSelected)

/-- Derived (R33, R57, R89, R14): a step runs the decoded operation: of the byte or the end of the stream at the front of the inputs, read as the
stored sequencer reads it; of the `OUT19` frame of the request at the front; of the frame in `buf` in the transient
DECODED. What the step adds is that the input is consumed. Two clauses are the model's choices: that DECODED can be
stored and is left by a step without an input (R14 permits it; notes/assumptions/7.md), and that an `OUT19` frame is
read back as the request it answers, which the block itself never does (R45; notes/assumptions/10.md). -/
def Obligations.StepRunsDecodedOperation : Prop :=
  ∀ (s : State) (i : Instr) (rest : List Input),
    (∀ b, s.seq ≠ .decoded → s.inputs = .rx (.rxByte b) :: rest →
      decode s.cfg (.decoder s.seq) [b] = .instr i → step s = exec i { s with inputs := rest }) ∧
    (s.seq ≠ .decoded → s.inputs = .rx .rxEnd :: rest →
      decode s.cfg (.decoder s.seq) [] = .instr i → step s = exec i { s with inputs := rest }) ∧
    (∀ F : List Byte, s.seq ≠ .decoded → s.inputs = .encReq (F.getD 2 0) ((F.drop 3).take 12) :: rest →
      decode s.cfg .encoder F = .instr i → step s = exec i { s with inputs := rest }) ∧
    (s.seq = .decoded → decode s.cfg (.decoder .decoded) s.buf.toList = .instr i → step s = exec i s)

/-- The machine after reset meets the invariant. -/
def Obligations.ResetMeetsInvariant : Prop :=
  State.reset.Inv

/-- R18, R14 (derived): every step keeps the invariant. -/
def Obligations.StepKeepsInvariant : Prop :=
  ∀ s t : State, s.Inv → step s = .next t → t.Inv

/-- Derived (R43): nothing received and no request changes the parameter of the instance. -/
def Obligations.ParameterNeverChanges : Prop :=
  ∀ (n : Nat) (s t : State), steps n s = .next t → t.cfg = s.cfg

/-- Derived (R18 (b), history part): `k` bytes after a start byte, with at most 8 of them, the buffer holds the
start byte and those bytes in order of arrival, nothing has been reported, and everything from offset `k + 1` on is
as it was. -/
def Obligations.BodyBytesHeldInOrder : Prop :=
  ∀ (s : State) (bs : List Byte) (rest : List Input), s.seq = .seekingStart → (h : bs.length ≤ 8) →
    s.inputs = (0xAA :: bs).map (fun b => .rx (.rxByte b)) ++ rest →
    ∃ t, steps (bs.length + 1) s = .next t ∧
      t.seq = .frameBody ⟨bs.length, by omega⟩ ∧ t.decOut = .none ∧ t.inputs = rest ∧
      t.buf[0] = 0xAA ∧
      ∀ k : Fin 10, 0 < k.val → t.buf[k] = if k.val ≤ bs.length then bs.getD (k.val - 1) 0 else s.buf[k]

/-- Derived (R91 (a), (b), laws the spec infers from R81 to R83): over leading bytes that are no start byte, resync
ends at the first start byte or at the end of the stream; nothing beyond it is consumed and no other output is
given. -/
def Obligations.ResyncConsumesUpToStart : Prop :=
  ∀ (s : State) (g : List Byte) (rest : List Input), s.seq = .seekingStart → 0xAA ∉ g →
    (s.inputs = g.map (fun b => .rx (.rxByte b)) ++ .rx (.rxByte 0xAA) :: rest →
      steps (g.length + 1) s =
        .next { s with seq := .frameBody 0, buf := s.buf.set 0 0xAA, decOut := .none, inputs := rest }) ∧
    (s.inputs = g.map (fun b => .rx (.rxByte b)) ++ .rx .rxEnd :: rest →
      steps (g.length + 1) s = .next { s with decOut := .err .endOfStream, inputs := rest }) ∧
    (∀ k x, 0 < k → k ≤ g.length → s.inputs = g.map (fun b => .rx (.rxByte b)) ++ x :: rest →
      ∃ t, steps k s = .next t ∧ t.decOut = .none ∧ t.seq = .seekingStart)

/-- Derived (R90, which the spec infers from R89): a run of the machine from seeking is the source's `read_frame`:
it consumes what `read_frame` consumes and nothing more, and delivers the decode of the frame, `EndOfStream` or
`ShortRead` as `read_frame` answers. Where the events offered run out the read blocks (R35): that `read_frame` then
answers `waiting` is the model's reading (notes/assumptions/19.md). -/
def Obligations.ReadFrameIsRunOfSteps : Prop :=
  ∀ (s : State) (evs : List RxEvent) (more : List Input), s.seq = .seekingStart → s.inputs = evs.map .rx ++ more →
    (∀ F rest, readFrame evs = .frame F rest → F.length = 10 ∧
      ∃ n, n + rest.length = evs.length ∧
        steps n s = .next { s with
          buf := bufOfList F, decOut := .frame (decodeFrame s.cfg (frameOf (bufOfList F))), inputs := rest.map .rx ++ more }) ∧
    (∀ rest, readFrame evs = .endOfStream rest →
      ∃ n, n + rest.length = evs.length ∧
        steps n s = .next { s with decOut := .err .endOfStream, inputs := rest.map .rx ++ more }) ∧
    (∀ k rest, readFrame evs = .shortRead k rest →
      ∃ n t c, n + rest.length = evs.length ∧ steps n s = .next t ∧
        t.seq = .seekingStart ∧ t.decOut = .err (.shortRead c) ∧ c.val = k ∧ t.inputs = rest.map .rx ++ more) ∧
    (readFrame evs = .waiting → evs ≠ [] →
      ∃ t, steps evs.length s = .next t ∧ t.seq ≠ .decoded ∧ t.decOut = .none ∧ t.inputs = more)

/-- R16, R25 (derived): no rule reads a buffer byte before the current frame has written it. Two states that differ
only in unwritten buffer bytes step alike, with the same outputs, and still differ only there. -/
def Obligations.UnwrittenBufferUnobservable : Prop :=
  ∀ s t s' : State, s.AgreeOnWritten t → step s = .next s' → ∃ t', step t = .next t' ∧ s'.AgreeOnWritten t'

/-- Derived (R85, R106, R107 with the spec's own decision D6): which report a stream event gives is decided by the
sequencer and the kind of event alone: `EndOfStream` only while seeking, `ShortRead` only in a frame body and for
every count, a result only for the ninth body byte. -/
def Obligations.ReportsOfStreamEvents : Prop :=
  ∀ (s t : State) (ev : RxEvent) (rest : List Input), s.seq ≠ .decoded → s.inputs = .rx ev :: rest → step s = .next t →
    (t.decOut = .err .endOfStream ↔ s.seq = .seekingStart ∧ ev = .rxEnd) ∧
    (∀ c, t.decOut = .err (.shortRead c) ↔ s.seq = .frameBody c ∧ ev = .rxEnd) ∧
    ((∃ r, t.decOut = .frame r) ↔ s.seq = .frameBody 8 ∧ ∃ b, ev = .rxByte b)

/-- Derived (R79, which the spec infers from R82, R85, R97): an outbound frame looped back into a seeking decoder
gives, after ten events, an Unknown result of type `0xB4` (if the parameter does not hold that type) carrying the
command and the first five payload bytes; the other nine bytes are then scanned. -/
def Obligations.LoopedBackFrameIsUnknown : Prop :=
  ∀ (s : State) (cmd : Byte) (P F : List Byte) (rest : List Input), s.seq = .seekingStart →
    0xB4 ∉ s.cfg.devinfoTypes → encodeFrame cmd P = .txFrame F →
    s.inputs = F.map (fun b => .rx (.rxByte b)) ++ rest →
    ∃ t r, steps 10 s = .next t ∧ t.seq = .seekingStart ∧ t.decOut = .frame r ∧
      r.variant = .unknown ∧ r.type = 0xB4 ∧
      r.payload = ⟨cmd, P.getD 0 0, P.getD 1 0, P.getD 2 0, P.getD 3 0, P.getD 4 0⟩ ∧
      t.inputs = (F.drop 10).map (fun b => .rx (.rxByte b)) ++ rest

/-! ## Reset, silence, instances -/

/-- R25, R13 (derived): after reset the decoder seeks with `cnt = 0`, has no output, and its report ports are 0.
What the model's reset gives `buf` is its own choice (notes/assumptions/4.md) and no part of this. -/
def Obligations.ResetLeavesDecoderSeeking : Prop :=
  storedPair State.reset.seq = some (.seekingStart, 0) ∧ State.reset.decOut = .none ∧
  (decPorts State.reset).frame_done = false ∧ (decPorts State.reset).err_eos = false ∧
  (decPorts State.reset).err_short = false ∧ (decPorts State.reset).result = none ∧
  State.reset.cfg.devinfoTypes = [0xC1]

/-- Derived (R131, R134, the spec's own decisions D7, D23): a reset at any moment, in mid-frame too, reports nothing
and leaves the decoder seeking, with the inputs still to come scanned from there; the encoder's answer and the
parameter are not touched. -/
def Obligations.ResetInMidFrameReportsNothing : Prop :=
  ∀ (s : State) (rest : List Input), s.seq ≠ .decoded → s.inputs = .reset :: rest →
    ∃ t, step s = .next t ∧ t.seq = .seekingStart ∧ t.decOut = .none ∧ t.inputs = rest ∧
      t.encOut = s.encOut ∧ t.cfg = s.cfg

/-- R35 (derived): where no event is offered the decoder's state is held. That the output of an earlier step is then
no longer shown is the port wrapping's (R22; notes/assumptions/11.md). -/
def Obligations.SilenceHoldsState : Prop :=
  ∀ (s : State) (rest : List Input), s.seq ≠ .decoded →
    (s.inputs = [] → step s = .next { s with decOut := .none }) ∧
    (s.inputs = .idle :: rest → step s = .next { s with decOut := .none, inputs := rest })

/-- R30: a step of one instance reads and writes only its own state, and is that instance's own step. -/
def Obligations.InstancesAreIndependent : Prop :=
  ∀ (k : Nat) (sys : List State), ∃ sys', stepInstance k sys = .next sys' ∧ sys'.length = sys.length ∧
    (∀ j, j ≠ k → sys'[j]? = sys[j]?) ∧
    (∀ s, sys[k]? = some s → ∃ t, step s = .next t ∧ sys'[k]? = some t)

/-! ## Ports -/

/-- Derived (R22, R115 (b), R134, the spec's own decisions D2, D3, D7): at a clock edge reset wins over everything,
the end of the stream over a byte, and an edge that offers nothing changes only the report outputs; the inputs still
to come are not touched. -/
def Obligations.ClockEdgePriority : Prop :=
  ∀ (p : DecPortIn) (s : State), s.seq ≠ .decoded →
    (p.rst = true → ∃ t, clockEdge p s = .next t ∧ t.seq = .seekingStart ∧ t.decOut = .none ∧
      t.encOut = s.encOut ∧ t.cfg = s.cfg ∧ t.inputs = s.inputs) ∧
    (p.rst = false → p.rx_eos = true →
      clockEdge p s = step { s with inputs := .rx .rxEnd :: s.inputs }) ∧
    (p.rst = false → p.rx_eos = false → p.rx_valid = true →
      clockEdge p s = step { s with inputs := .rx (.rxByte p.rx_data) :: s.inputs }) ∧
    (p.rst = false → p.rx_eos = false → p.rx_valid = false → clockEdge p s = .next { s with decOut := .none })

/-- R22 (derived): the decoder is always ready, at most one report output is 1 in any cycle, and each is 1 exactly
when the latest step yielded its output. -/
def Obligations.OneReportPerCycle : Prop :=
  ∀ s : State, (decPorts s).rx_ready = true ∧
    ((decPorts s).frame_done = true ↔ ∃ r, s.decOut = .frame r) ∧
    ((decPorts s).err_eos = true ↔ s.decOut = .err .endOfStream) ∧
    ((decPorts s).err_short = true ↔ ∃ k, s.decOut = .err (.shortRead k)) ∧
    (∀ k, s.decOut = .err (.shortRead k) → (decPorts s).err_short_cnt = some (BitVec.ofNat 4 k.val)) ∧
    ((decPorts s).err_short = true → (decPorts s).err_eos = false ∧ (decPorts s).frame_done = false) ∧
    ((decPorts s).err_eos = true → (decPorts s).frame_done = false)

/-- Derived (R101, R28, the spec's own decisions D13, D15, D25): while `frame_done` is 1 the result ports, functions
of `buf`, show the delivered result; otherwise there is none. -/
def Obligations.ResultPortsShowResult : Prop :=
  ∀ s : State, s.Inv →
    ((decPorts s).result.isSome = (decPorts s).frame_done) ∧
    (∀ r, s.decOut = .frame r → ∃ p, (decPorts s).result = some p ∧
      p.res_kind = r.variant.code ∧ p.checksum_ok = r.checksum_ok ∧ p.terminator_ok = r.terminator_ok ∧
      p.res_type = r.type ∧ (∀ k, k < 6 → lane p.res_payload k = r.payload.bytes.getD k 0) ∧
      p.res_checksum = s.buf[8] ∧ p.res_term = s.buf[9] ∧
      (∀ x y, r.variant = .measurement x y → p.pm25_x10 = x ∧ p.pm10_x10 = y) ∧
      (∀ y m dd i, r.variant = .deviceInfo y m dd i →
        p.year = y ∧ p.month = m ∧ p.day = dd ∧ p.device_id = i))

/-- Derived (R78, the spec's own decisions D8, D9; the zero lanes of a refused request left out, U8): an accepted
request presents the frame of rule R67 lane by lane, payload lanes at `enc_len` and above being `0x00`; a longer one
is refused. -/
def Obligations.EncoderPortsPresentFrame : Prop :=
  ∀ p : EncPortIn,
    (p.enc_len.toNat ≤ 12 → (encPorts p).enc_ok = true ∧ (encPorts p).enc_err_too_large = false ∧
      lane (encPorts p).enc_frame 0 = 0xAA ∧ lane (encPorts p).enc_frame 1 = 0xB4 ∧
      lane (encPorts p).enc_frame 2 = p.enc_cmd ∧
      (∀ i, i < 12 → lane (encPorts p).enc_frame (3 + i) = if i < p.enc_len.toNat then lane p.enc_data i else 0) ∧
      lane (encPorts p).enc_frame 15 = 0xFF ∧ lane (encPorts p).enc_frame 16 = 0xFF ∧
      lane (encPorts p).enc_frame 17 = chkOut p.enc_cmd p.payload ∧ lane (encPorts p).enc_frame 18 = 0xAB) ∧
    (13 ≤ p.enc_len.toNat → (encPorts p).enc_ok = false ∧ (encPorts p).enc_err_too_large = true)

/-- R78, R130 (a) (derived): lanes at `enc_len` and above are ignored, whatever they carry. -/
def Obligations.UnusedLanesIgnored : Prop :=
  ∀ p q : EncPortIn, p.enc_cmd = q.enc_cmd → p.enc_len = q.enc_len →
    (∀ i, i < p.enc_len.toNat → lane p.enc_data i = lane q.enc_data i) → encPorts p = encPorts q

/-- Derived (R20): the status view shows the stored `dstate` and `cnt`. -/
def Obligations.StatusViewShowsSequencer : Prop :=
  ∀ s : State,
    (s.seq = .seekingStart → (decPorts s).dec_state = some 0 ∧ (decPorts s).dec_cnt = some 0) ∧
    (∀ c, s.seq = .frameBody c → (decPorts s).dec_state = some 1 ∧ (decPorts s).dec_cnt = some (BitVec.ofNat 4 c.val))

/-- R103, R111 to R113, R115 (derived): a hard error is the whole output of its step; a completing step carries a
checksum mismatch, a bad terminator, an unknown type exactly when its frame has them, and any together. -/
def Obligations.ConditionsOfOutputs : Prop :=
  (∀ (o : DecOut) (c : Condition), c ∈ o.conditions → c.cls = .hard → o.conditions = [c] ∧ ∀ r, o ≠ .frame r) ∧
  (∀ (s : State) (b : Byte), s.seq = .frameBody 8 →
    ∃ t, exec (.readFrameLast b) s = .next t ∧
      (.checksumMismatch ∈ t.decOut.conditions ↔ chkIn (frameOf s.buf) ≠ s.buf[8]) ∧
      (.badTerminator ∈ t.decOut.conditions ↔ b ≠ 0xAB) ∧
      (.unknownResponseType ∈ t.decOut.conditions ↔ s.buf[1] ≠ 0xC0 ∧ s.buf[1] ∉ s.cfg.devinfoTypes))

/-! ## Encodings -/

/-- Decode and encode agree: a well-formed operation, its payload as the wire carries it, is read back from its own
words in every slot that selects it. -/
def Obligations.DecodeEncodeRoundTrip : Prop :=
  ∀ (cfg : Config) (i : Instr) (slot : Slot), i.wf cfg = true → i.padded = i → i.selectedIn slot = true →
    decode cfg slot (encode i) = .instr i

/-- R50 (derived): a shorter payload is read back with its padding, and running the padded request gives the same
answer as running the request. -/
def Obligations.ShortPayloadReadsBackPadded : Prop :=
  ∀ (cfg : Config) (i : Instr), i.wf cfg = true → i.selectedIn .encoder = true →
    decode cfg .encoder (encode i) = .instr i.padded ∧ i.padded.padded = i.padded ∧
    ∀ s : State, exec i.padded s = exec i s

/-- The other direction: words that decode are the words of the operation they decode to, but for the checksum byte
of an `OUT19` frame, which the encoder computes. -/
def Obligations.EncodeOfDecodedWords : Prop :=
  ∀ (cfg : Config) (slot : Slot) (w : List Byte) (i : Instr), decode cfg slot w = .instr i →
    i.wf cfg = true ∧ i.padded = i ∧ i.selectedIn slot = true ∧
    (slot ≠ .encoder → encode i = w) ∧
    (slot = .encoder → encode i = w.set 17 (chkOut (w.getD 2 0) ((w.drop 3).take 12)))

/-- R45, R54 (derived): an `OUT19` word is accepted exactly when it has 19 bytes and the five constants; an `IN10`
word exactly when it has ten bytes and begins with the start byte, whatever the other nine are. -/
def Obligations.AcceptedWords : Prop :=
  ∀ (cfg : Config) (w : List Byte),
    ((∃ i, decode cfg .encoder w = .instr i) ↔
      w.length = 19 ∧ w[0]? = some 0xAA ∧ w[1]? = some 0xB4 ∧ w[15]? = some 0xFF ∧ w[16]? = some 0xFF ∧
      w[18]? = some 0xAB) ∧
    ((∃ i, decode cfg (.decoder .decoded) w = .instr i) ↔ w.length = 10 ∧ w[0]? = some 0xAA)

/-- Derived (R57): under every parameter, whose members have a `DEC.DEVINFO` row each, the decoder reads the first
row, in priority order, that the bytes select, and it rejects what no row selects; in a frame body both rows are
selected by the bits and the count decides. -/
def Obligations.DecodeReadsFirstMatchingRow : Prop :=
  ∀ (cfg : Config) (w : List Byte),
    ((decode cfg .encoder w).instr?.map Instr.mnemonic = (rowsSelected cfg .out19 w).head?) ∧
    ((decode cfg (.decoder .decoded) w).instr?.map Instr.mnemonic = (rowsSelected cfg .in10 w).head?) ∧
    (w.length = 1 →
      (decode cfg (.decoder .seekingStart) w).instr?.map Instr.mnemonic = (rowsSelected cfg .byte1 w).head?) ∧
    (∀ (c : Fin 9), w.length = 1 → rowsSelected cfg .body1 w = ["READ_FRAME.BODY", "READ_FRAME.LAST"] ∧
      (decode cfg (.decoder (.frameBody c)) w).instr?.map Instr.mnemonic =
        (rowsSelected cfg .body1 w)[if c.val < 8 then 0 else 1]?)

/-- Words written out from the tables of R45, R46 and R57 decode to the operations they stand for. -/
def Obligations.WrittenOutWordsDecode : Prop :=
  decode Config.default .encoder
      [0xAA, 0xB4, 0x06, 0x01, 0, 0, 0, 0, 0, 0, 0, 0, 0, 0, 0, 0xFF, 0xFF, 0x05, 0xAB]
    = .instr (.encSleep [1, 0, 0, 0, 0, 0, 0, 0, 0, 0, 0, 0]) ∧
  decode Config.default (.decoder .decoded) [0xAA, 0xC0, 0x64, 0x00, 0xE6, 0x00, 0x00, 0x00, 0x0A, 0xAB]
    = .instr (.decMeas ⟨0x64, 0x00, 0xE6, 0x00, 0x00, 0x00⟩ 0x0A 0xAB) ∧
  decode Config.default (.decoder .decoded) [0xAA, 0xC1, 0x12, 0x0B, 0x0F, 0x34, 0x12, 0x00, 0x33, 0xAB]
    = .instr (.decDevinfo 0xC1 ⟨0x12, 0x0B, 0x0F, 0x34, 0x12, 0x00⟩ 0x33 0xAB) ∧
  decode Config.default (.decoder .seekingStart) [0xAA] = .instr .resyncStart ∧
  decode Config.default (.decoder .seekingStart) [0xAB] = .instr (.resyncSkip 0xAB) ∧
  decode Config.default (.decoder (.frameBody 7)) [0xAA] = .instr (.readFrameBody 0xAA) ∧
  decode Config.default (.decoder (.frameBody 8)) [0xAA] = .instr (.readFrameLast 0xAA) ∧
  decode Config.default (.decoder .seekingStart) [] = .instr .resyncEnd ∧
  decode Config.default (.decoder (.frameBody 0)) [] = .instr .readFrameShort

/-- Derived (R57): a frame written as one number the way the opcode table writes it, frame offset 0 leftmost, is read
as the decoder reads its bytes, whatever the bytes after the start byte are. The same frame numbered with bit 0 the
least significant bit of its first byte is read alike if its last byte is no start byte: which of the two orders a word
has is the model's choice (notes/assumptions/9.md). -/
def Obligations.TableWordsReadOffsetZeroLeftmost : Prop :=
  ∀ F : List Byte, F[0]? = some 0xAA →
    (F.length = 10 →
      decodeTableWord 80 (lanesValue F.reverse) = (decode Config.default (.decoder .decoded) F).instr? ∧
      (F[9]? ≠ some 0xAA →
        decodeTableWord 80 (lanesValue F) = (decode Config.default (.decoder .decoded) F).instr?)) ∧
    (F.length = 19 →
      decodeTableWord 152 (lanesValue F.reverse) = (decode Config.default .encoder F).instr? ∧
      (F[18]? ≠ some 0xAA →
        decodeTableWord 152 (lanesValue F) = (decode Config.default .encoder F).instr?))

/-- Derived (R104, the spec's own decision D13): the codes of the six conditions, and the code 0 exactly where there is
none: for a decoder output without a condition, for a completing step whose frame passes both checks and is of a known
type, and for a request that is accepted. That a report with several conditions shows the code of each is the model's
reading (notes/assumptions/24.md). -/
def Obligations.CodesOfReports : Prop :=
  (∀ (n : Nat) (k : Fin 9), (Condition.payloadTooLarge n).code = 1 ∧ Condition.endOfStream.code = 2 ∧
    (Condition.shortRead k).code = 3 ∧ Condition.checksumMismatch.code = 4 ∧ Condition.badTerminator.code = 5 ∧
    Condition.unknownResponseType.code = 6) ∧
  (∀ o : DecOut, 0 ∈ o.codes ↔ o.conditions = []) ∧
  (∀ (o : DecOut) (c : Condition), c ∈ o.conditions → c.code ∈ o.codes) ∧
  (∀ (cmd : Byte) (P : List Byte), (encodeFrame cmd P).codes = if 12 < P.length then [1] else [0]) ∧
  (∀ (s : State) (b : Byte), s.seq = .frameBody 8 →
    ∃ t, exec (.readFrameLast b) s = .next t ∧
      (t.decOut.codes = [0] ↔
        chkIn (frameOf s.buf) = s.buf[8] ∧ b = 0xAB ∧ (s.buf[1] = 0xC0 ∨ s.buf[1] ∈ s.cfg.devinfoTypes)) ∧
      (4 ∈ t.decOut.codes ↔ chkIn (frameOf s.buf) ≠ s.buf[8]) ∧ (5 ∈ t.decOut.codes ↔ b ≠ 0xAB) ∧
      (6 ∈ t.decOut.codes ↔ s.buf[1] ≠ 0xC0 ∧ s.buf[1] ∉ s.cfg.devinfoTypes))
end

