-- ==== Sys2Proof/Laws/Errors.lean ====
section
/-! SUPPORT. The codes of the taxonomy: what each report shows (R104). -/

namespace Sys2Proof.Machine

/-- A condition's code is never the code of none. -/
theorem Condition.code_ne_zero (c : Condition) : c.code ≠ noConditionCode := by
  cases c <;> simp [Condition.code]

/-- The code of none is shown exactly where there is no condition. -/
theorem zero_mem_conditionCodes (cs : List Condition) : noConditionCode ∈ conditionCodes cs ↔ cs = [] := by
  cases cs with
  | nil => simp [conditionCodes]
  | cons c cs =>
    simp only [conditionCodes, List.mem_map, reduceCtorEq, iff_false]
    rintro ⟨d, -, hd⟩
    exact d.code_ne_zero hd

@[simp] theorem DecOut.codes_none : DecOut.none.codes = [0] := rfl
@[simp] theorem DecOut.codes_endOfStream : (DecOut.err .endOfStream).codes = [2] := rfl
@[simp] theorem DecOut.codes_shortRead (k : Fin 9) : (DecOut.err (.shortRead k)).codes = [3] := rfl
@[simp] theorem EncOut.codes_none : EncOut.none.codes = [0] := rfl
@[simp] theorem EncOut.codes_txFrame (F : List Byte) : (EncOut.txFrame F).codes = [0] := rfl
@[simp] theorem EncOut.codes_payloadTooLarge (n : Nat) : (EncOut.payloadTooLarge n).codes = [1] := rfl

end Sys2Proof.Machine
end

