-- ==== Sys2Proof/Laws/Operands.lean ====
section
/-! SUPPORT. The small lemmas of operand assembly, of the integer sums and of the two checksums. -/

namespace Sys2Proof

@[simp] theorem sumBytes_nil : sumBytes [] = 0 := rfl

@[simp] theorem sumBytes_cons (b : Byte) (bs : List Byte) : sumBytes (b :: bs) = b.toNat + sumBytes bs := by
  simp [sumBytes]

@[simp] theorem sumBytes_append (as bs : List Byte) : sumBytes (as ++ bs) = sumBytes as + sumBytes bs := by
  simp [sumBytes]

@[simp] theorem sumBytes_zeros (k : Nat) : sumBytes (List.replicate k 0#8) = 0 := by
  induction k with
  | zero => rfl
  | succ k ih => simp [List.replicate_succ, ih]

/-- Padding adds nothing to a sum (R59). -/
@[simp] theorem sumBytes_padPayload (P : List Byte) : sumBytes (padPayload P) = sumBytes P := by
  simp [padPayload]

/-- A payload that fits is padded to exactly 12 bytes (R50). -/
theorem length_padPayload {P : List Byte} (h : P.length ≤ 12) : (padPayload P).length = 12 := by
  simp [padPayload, MAX_PAYLOAD]; omega

/-- A payload of 12 bytes is not padded (R72). -/
theorem padPayload_of_length {P : List Byte} (h : P.length = 12) : padPayload P = P := by
  simp [padPayload, h]

/-- The outbound checksum sees its payload through the integer sum alone. -/
theorem chkOut_congr (cmd : Byte) {data data' : List Byte} (h : sumBytes data = sumBytes data') :
    chkOut cmd data = chkOut cmd data' := by
  simp only [chkOut, h]

/-- An outbound checksum as a byte of a natural number, 254 standing for minus two (R58). -/
theorem chkOut_eq_ofNat (cmd : Byte) (data : List Byte) :
    chkOut cmd data = BitVec.ofNat 8 (sumBytes data + cmd.toNat + 254) := by
  apply BitVec.eq_of_toNat_eq
  simp only [chkOut, CHK_OUT_ADJ, BitVec.toNat_ofInt, BitVec.toNat_ofNat]
  omega

/-- The bytes of an outbound frame in one list. -/
theorem outFrame_eq (cmd : Byte) (data : List Byte) :
    outFrame cmd data = START :: OUT_TYPE :: cmd :: (data ++ [FILL, FILL, chkOut cmd data, TERM]) := rfl

@[simp] theorem outFrame_length (cmd : Byte) (data : List Byte) : (outFrame cmd data).length = data.length + 7 := by
  simp [outFrame]

@[simp] theorem InFrame.bytes_length (f : InFrame) : f.bytes.length = 10 := rfl

/-- The inbound checksum as an 8-bit sum of its seven bytes (R58, R61). -/
theorem chkIn_eq_ofNat (f : InFrame) :
    chkIn f = BitVec.ofNat 8 (f.type.toNat + (f.payload.d0.toNat + (f.payload.d1.toNat + (f.payload.d2.toNat
      + (f.payload.d3.toNat + (f.payload.d4.toNat + f.payload.d5.toNat)))))) := by
  simp [chkIn, InFrame.bytes, InPayload.bytes]

theorem lanesValue_shift (b : Byte) (bs : List Byte) (k : Nat) :
    lanesValue (b :: bs) >>> (8 * (k + 1)) = lanesValue bs >>> (8 * k) := by
  have := b.isLt
  rw [show 8 * (k + 1) = 8 + 8 * k by omega, Nat.shiftRight_add]
  congr 1
  simp only [lanesValue, Nat.shiftRight_eq_div_pow]
  omega

/-- The bytes of the number of a list are the list (R78, R101). -/
@[simp] theorem numberBytes_lanesValue (F : List Byte) : numberBytes F.length (lanesValue F) = F := by
  induction F with
  | nil => rfl
  | cons b bs ih =>
    have hb : BitVec.ofNat 8 (lanesValue (b :: bs)) = b := by
      apply BitVec.eq_of_toNat_eq
      have := b.isLt
      simp only [lanesValue, BitVec.toNat_ofNat]
      omega
    simp only [numberBytes, List.length_cons, List.range_succ_eq_map, List.map_cons, List.map_map]
    refine congrArg₂ List.cons (by simpa using hb) ?_
    conv_rhs => rw [← ih]
    exact List.map_congr_left (fun k _ => congrArg (BitVec.ofNat 8) (lanesValue_shift b bs k))

/-- What `tableBytes` reads, said once: the bytes of the number of a list, in the order R57 writes a frame if the
leftmost byte is the start byte. -/
theorem tableBytes_lanesValue (F : List Byte) (n : Nat) (h : n = 8 * F.length) :
    tableBytes n (lanesValue F) = if F.getLast? = some START then F.reverse else F := by
  simp [tableBytes, h]

/-- Every result carries the flags of its frame and its raw type and payload (R93, R99). -/
theorem decodeFrame_eq_resultOf (cfg : Config) (f : InFrame) : ∃ v, decodeFrame cfg f = resultOf v f := by
  unfold decodeFrame
  split
  · exact ⟨_, rfl⟩
  · split <;> exact ⟨_, rfl⟩

end Sys2Proof
end

