-- ==== Sys2Proof/Laws/State.lean ====
section
/-! SUPPORT. One lemma per field per update of State, and the fields of the four shared operations over them, so that no
proof unfolds a record update. -/

namespace Sys2Proof.Machine

variable (s : State)

@[simp] theorem State.writeBuf_seq (i : Fin 10) (b : Byte) : (s.writeBuf i b).seq = s.seq := rfl
@[simp] theorem State.writeBuf_buf (i : Fin 10) (b : Byte) : (s.writeBuf i b).buf = s.buf.set i.val b i.isLt := rfl
@[simp] theorem State.writeBuf_decOut (i : Fin 10) (b : Byte) : (s.writeBuf i b).decOut = s.decOut := rfl
@[simp] theorem State.writeBuf_encOut (i : Fin 10) (b : Byte) : (s.writeBuf i b).encOut = s.encOut := rfl
@[simp] theorem State.writeBuf_inputs (i : Fin 10) (b : Byte) : (s.writeBuf i b).inputs = s.inputs := rfl
@[simp] theorem State.writeBuf_cfg (i : Fin 10) (b : Byte) : (s.writeBuf i b).cfg = s.cfg := rfl
@[simp] theorem State.writeBuf_resets (i : Fin 10) (b : Byte) : (s.writeBuf i b).resets = s.resets := rfl

@[simp] theorem State.moveTo_seq (q : Sequencer) : (s.moveTo q).seq = q := rfl
@[simp] theorem State.moveTo_buf (q : Sequencer) : (s.moveTo q).buf = s.buf := rfl
@[simp] theorem State.moveTo_decOut (q : Sequencer) : (s.moveTo q).decOut = s.decOut := rfl
@[simp] theorem State.moveTo_encOut (q : Sequencer) : (s.moveTo q).encOut = s.encOut := rfl
@[simp] theorem State.moveTo_inputs (q : Sequencer) : (s.moveTo q).inputs = s.inputs := rfl
@[simp] theorem State.moveTo_cfg (q : Sequencer) : (s.moveTo q).cfg = s.cfg := rfl
@[simp] theorem State.moveTo_resets (q : Sequencer) : (s.moveTo q).resets = s.resets := rfl

@[simp] theorem State.report_seq (o : DecOut) : (s.report o).seq = s.seq := rfl
@[simp] theorem State.report_buf (o : DecOut) : (s.report o).buf = s.buf := rfl
@[simp] theorem State.report_decOut (o : DecOut) : (s.report o).decOut = o := rfl
@[simp] theorem State.report_encOut (o : DecOut) : (s.report o).encOut = s.encOut := rfl
@[simp] theorem State.report_inputs (o : DecOut) : (s.report o).inputs = s.inputs := rfl
@[simp] theorem State.report_cfg (o : DecOut) : (s.report o).cfg = s.cfg := rfl
@[simp] theorem State.report_resets (o : DecOut) : (s.report o).resets = s.resets := rfl

@[simp] theorem State.answer_seq (o : EncOut) : (s.answer o).seq = s.seq := rfl
@[simp] theorem State.answer_buf (o : EncOut) : (s.answer o).buf = s.buf := rfl
@[simp] theorem State.answer_decOut (o : EncOut) : (s.answer o).decOut = s.decOut := rfl
@[simp] theorem State.answer_encOut (o : EncOut) : (s.answer o).encOut = o := rfl
@[simp] theorem State.answer_inputs (o : EncOut) : (s.answer o).inputs = s.inputs := rfl
@[simp] theorem State.answer_cfg (o : EncOut) : (s.answer o).cfg = s.cfg := rfl
@[simp] theorem State.answer_resets (o : EncOut) : (s.answer o).resets = s.resets := rfl

@[simp] theorem State.withInputs_seq (l : List Input) : (s.withInputs l).seq = s.seq := rfl
@[simp] theorem State.withInputs_buf (l : List Input) : (s.withInputs l).buf = s.buf := rfl
@[simp] theorem State.withInputs_decOut (l : List Input) : (s.withInputs l).decOut = s.decOut := rfl
@[simp] theorem State.withInputs_encOut (l : List Input) : (s.withInputs l).encOut = s.encOut := rfl
@[simp] theorem State.withInputs_inputs (l : List Input) : (s.withInputs l).inputs = l := rfl
@[simp] theorem State.withInputs_cfg (l : List Input) : (s.withInputs l).cfg = s.cfg := rfl
@[simp] theorem State.withInputs_resets (l : List Input) : (s.withInputs l).resets = s.resets := rfl

@[simp] theorem State.deliver_seq (r : Result) : (s.deliver r).seq = .seekingStart := rfl
@[simp] theorem State.deliver_buf (r : Result) : (s.deliver r).buf = s.buf := rfl
@[simp] theorem State.deliver_decOut (r : Result) : (s.deliver r).decOut = .frame r := rfl
@[simp] theorem State.deliver_encOut (r : Result) : (s.deliver r).encOut = s.encOut := rfl
@[simp] theorem State.deliver_inputs (r : Result) : (s.deliver r).inputs = s.inputs := rfl
@[simp] theorem State.deliver_cfg (r : Result) : (s.deliver r).cfg = s.cfg := rfl
@[simp] theorem State.deliver_resets (r : Result) : (s.deliver r).resets = s.resets := rfl

@[simp] theorem State.raise_seq (e : DecError) : (s.raise e).seq = .seekingStart := rfl
@[simp] theorem State.raise_buf (e : DecError) : (s.raise e).buf = s.buf := rfl
@[simp] theorem State.raise_decOut (e : DecError) : (s.raise e).decOut = .err e := rfl
@[simp] theorem State.raise_encOut (e : DecError) : (s.raise e).encOut = s.encOut := rfl
@[simp] theorem State.raise_inputs (e : DecError) : (s.raise e).inputs = s.inputs := rfl
@[simp] theorem State.raise_cfg (e : DecError) : (s.raise e).cfg = s.cfg := rfl
@[simp] theorem State.raise_resets (e : DecError) : (s.raise e).resets = s.resets := rfl

@[simp] theorem idleEdge_seq : (idleEdge s).seq = s.seq := rfl
@[simp] theorem idleEdge_buf : (idleEdge s).buf = s.buf := rfl
@[simp] theorem idleEdge_decOut : (idleEdge s).decOut = .none := rfl
@[simp] theorem idleEdge_encOut : (idleEdge s).encOut = s.encOut := rfl
@[simp] theorem idleEdge_inputs : (idleEdge s).inputs = s.inputs := rfl
@[simp] theorem idleEdge_cfg : (idleEdge s).cfg = s.cfg := rfl
@[simp] theorem idleEdge_resets : (idleEdge s).resets = s.resets := rfl

@[simp] theorem resetInput_seq : (resetInput s).seq = .seekingStart := rfl
@[simp] theorem resetInput_decOut : (resetInput s).decOut = .none := rfl
@[simp] theorem resetInput_encOut : (resetInput s).encOut = s.encOut := rfl
@[simp] theorem resetInput_inputs : (resetInput s).inputs = s.inputs := rfl
@[simp] theorem resetInput_cfg : (resetInput s).cfg = s.cfg := rfl
@[simp] theorem resetInput_resets : (resetInput s).resets = s.resets + 1 := rfl

end Sys2Proof.Machine
end

