-- ==== Sys2Proof/Laws/Ops.lean ====
section
/-! SUPPORT. What each shared operation, the fetch and the step can do, said once; and how a run of several steps
unfolds. -/

namespace Sys2Proof.Machine

/-- A buffer write changes the byte it names and no other (R16). -/
theorem State.writeBuf_get (s : State) (i : Fin 10) (b : Byte) (j : Nat) (hj : j < 10) :
    (s.writeBuf i b).buf[j] = if i.val = j then b else s.buf[j] := by
  simp [State.writeBuf, Vector.getElem_set]

/-- ENCODE refuses or builds, by the length test alone (R67, R68). -/
theorem encodeFrame_cases (cmd : Byte) (P : List Byte) :
    (P.length ≤ 12 ∧ encodeFrame cmd P = .txFrame (outFrame cmd (padPayload P))) ∨
    (12 < P.length ∧ encodeFrame cmd P = .payloadTooLarge P.length) := by
  unfold encodeFrame
  split
  · exact .inr ⟨by assumption, rfl⟩
  · exact .inl ⟨Nat.le_of_not_lt (by assumption), rfl⟩

/-- The meaning of the form a request selects is ENCODE of the request (R67). -/
theorem exec_ofRequest (cmd : Byte) (P : List Byte) (s : State) :
    exec (Instr.ofRequest cmd P) s = .next (s.answer (encodeFrame cmd P)) := by
  unfold Instr.ofRequest
  repeat' split
  all_goals simp_all [exec, execEncSetmode, execEncQuerydata, execEncDeviceid, execEncSleep, execEncFirmware,
    execEncWorkingperiod, execEncReserved]

/-- Outside the transient DECODED a step takes the front input, or is an edge without an event. -/
theorem fetch_stored {s : State} (h : s.seq ≠ .decoded) :
    fetch s = match s.inputs with
      | [] => .quiet (idleEdge s)
      | x :: rest => actionOf x (s.withInputs rest) :=
  if_neg h

theorem step_request {s : State} {cmd : Byte} {P : List Byte} {rest : List Input} (h : s.seq ≠ .decoded)
    (hi : s.inputs = .encReq cmd P :: rest) :
    step s = .next ((s.withInputs rest).answer (encodeFrame cmd P)) := by
  simp [step, fetch_stored h, hi, actionOf, exec_ofRequest]

theorem step_idle {s : State} {rest : List Input} (h : s.seq ≠ .decoded) (hi : s.inputs = .idle :: rest) :
    step s = .next (idleEdge (s.withInputs rest)) := by
  simp [step, fetch_stored h, hi, actionOf]

theorem step_reset {s : State} {rest : List Input} (h : s.seq ≠ .decoded) (hi : s.inputs = .reset :: rest) :
    step s = .next (resetInput (s.withInputs rest)) := by
  simp [step, fetch_stored h, hi, actionOf]

theorem step_silent {s : State} (h : s.seq ≠ .decoded) (hi : s.inputs = []) : step s = .next (idleEdge s) := by
  simp [step, fetch_stored h, hi]

/-- A stream event runs the operation it selects, with the event consumed. -/
theorem step_rx {s : State} {ev : RxEvent} {rest : List Input} {i : Instr} (hi : s.inputs = .rx ev :: rest)
    (hs : rxInstr s.seq ev = some i) : step s = exec i (s.withInputs rest) := by
  have h : s.seq ≠ .decoded := by
    intro h; simp [h, rxInstr] at hs
  simp [step, fetch_stored h, hi, actionOf, hs]

/-- In the transient DECODED the step runs the row the completed frame selects and consumes nothing (R14). -/
theorem step_decoded {s : State} (h : s.seq = .decoded) : step s = exec (Instr.ofFrame s.cfg s.frame) s := by
  simp [step, fetch, h]

/-- A run takes its first step and goes on, or stops with it. -/
theorem steps_succ_eq (s : State) (n : Nat) :
    steps (n + 1) s = match step s with
      | .next t => steps n t
      | .fault r => .fault r
      | .refused r => .refused r := by
  have hc : Sys2Proof.core.step s = step s := rfl
  simp only [steps, Host.Core.run, hc]
  cases step s <;> rfl

theorem steps_succ {s t : State} (h : step s = .next t) (n : Nat) :
    steps (n + 1) s = steps n t := by
  rw [steps_succ_eq, h]

@[simp] theorem steps_zero (s : State) : steps 0 s = .next s := rfl

@[simp] theorem steps_one (s : State) : steps 1 s = step s := by
  rw [steps_succ_eq]
  cases step s <;> rfl

/-- Two runs end to end. -/
theorem steps_add {s t : State} {m : Nat} (h : steps m s = .next t) (n : Nat) :
    steps (m + n) s = steps n t := by
  induction m generalizing s with
  | zero => cases h; simp
  | succ m ih =>
    rw [Nat.add_right_comm, steps_succ_eq]
    rw [steps_succ_eq] at h
    cases hs : step s with
    | next u => rw [hs] at h; exact ih h
    | fault r => rw [hs] at h; cases h
    | refused r => rw [hs] at h; cases h

end Sys2Proof.Machine
end

