-- ==== Sys2Proof/Laws/Exec.lean ====
section
/-! SUPPORT. One lemma per meaning over the shared operations, and one per kind of step: everything a step can do, said
once, so that no later proof unfolds a meaning, the fetch or the step. -/

namespace Sys2Proof.Machine

section meanings

variable {s : State}

theorem exec_resyncSkip (h : s.seq = .seekingStart) (b : Byte) : exec (.resyncSkip b) s = .next (s.report .none) := by
  simp [exec, execResyncSkip, h]

theorem exec_resyncStart (h : s.seq = .seekingStart) :
    exec .resyncStart s = .next (((s.writeBuf 0 START).moveTo (.frameBody 0)).report .none) := by
  simp [exec, execResyncStart, h]

theorem exec_resyncEnd (h : s.seq = .seekingStart) : exec .resyncEnd s = .next (s.raise .endOfStream) := by
  simp [exec, execResyncEnd, h]

theorem exec_readFrameBody {c : Fin 9} (h : s.seq = .frameBody c) (hc : c.val < 8) (b : Byte) :
    exec (.readFrameBody b) s =
      .next (((s.writeBuf c.succ b).moveTo (.frameBody ⟨c.val + 1, Nat.succ_lt_succ hc⟩)).report .none) := by
  simp [exec, execReadFrameBody, h, hc]

theorem exec_readFrameLast {c : Fin 9} (h : s.seq = .frameBody c) (hc : c.val = 8) (b : Byte) :
    exec (.readFrameLast b) s = .next ((s.writeBuf 9 b).deliver (decodeFrame s.cfg (s.writeBuf 9 b).frame)) := by
  simp [exec, execReadFrameLast, h, hc]

theorem exec_readFrameShort {c : Fin 9} (h : s.seq = .frameBody c) :
    exec .readFrameShort s = .next (s.raise (.shortRead c)) := by
  simp [exec, execReadFrameShort, h]

theorem exec_decMeas (h : s.seq = .decoded) (d : InPayload) (ck tm : Byte) :
    exec (.decMeas d ck tm) s = .next (s.deliver (measResult ⟨START, MEAS_TYPE, d, ck, tm⟩)) := by
  simp [exec, execDecMeas, h]

theorem exec_decDevinfo (h : s.seq = .decoded) (ty : Byte) (d : InPayload) (ck tm : Byte) :
    exec (.decDevinfo ty d ck tm) s = .next (s.deliver (devinfoResult ⟨START, ty, d, ck, tm⟩)) := by
  simp [exec, execDecDevinfo, h]

theorem exec_decUnknown (h : s.seq = .decoded) (ty : Byte) (d : InPayload) (ck tm : Byte) :
    exec (.decUnknown ty d ck tm) s = .next (s.deliver (unknownResult ⟨START, ty, d, ck, tm⟩)) := by
  simp [exec, execDecUnknown, h]

/-- The row a frame selects delivers DECODE of the frame (R94). -/
theorem exec_ofFrame (h : s.seq = .decoded) (cfg : Config) (f : InFrame) :
    exec (Instr.ofFrame cfg f) s = .next (s.deliver (decodeFrame cfg f)) := by
  obtain ⟨start, type, d, ck, tm⟩ := f
  unfold Instr.ofFrame decodeFrame
  split
  · rename_i ht
    cases (show type = MEAS_TYPE from ht)
    rw [exec_decMeas h]; rfl
  · split
    · rw [exec_decDevinfo h]; rfl
    · rw [exec_decUnknown h]; rfl

end meanings

section steps

variable {s : State} {rest : List Input}

theorem step_skip {b : Byte} (h : s.seq = .seekingStart) (hb : b ≠ START) (hi : s.inputs = .rx (.rxByte b) :: rest) :
    step s = .next ((s.withInputs rest).report .none) := by
  rw [step_rx hi (i := .resyncSkip b) (by simp only [h, rxInstr, Instr.ofSeekByte, if_neg hb]),
    exec_resyncSkip (by simpa using h)]

theorem step_start (h : s.seq = .seekingStart) (hi : s.inputs = .rx (.rxByte START) :: rest) :
    step s = .next ((((s.withInputs rest).writeBuf 0 START).moveTo (.frameBody 0)).report .none) := by
  rw [step_rx hi (i := .resyncStart) (by simp only [h, rxInstr, Instr.ofSeekByte, if_true]),
    exec_resyncStart (by simpa using h)]

theorem step_end (h : s.seq = .seekingStart) (hi : s.inputs = .rx .rxEnd :: rest) :
    step s = .next ((s.withInputs rest).raise .endOfStream) := by
  rw [step_rx hi (i := .resyncEnd) (by simp only [h, rxInstr]), exec_resyncEnd (by simpa using h)]

theorem step_body {b : Byte} {c : Fin 9} (h : s.seq = .frameBody c) (hc : c.val < 8)
    (hi : s.inputs = .rx (.rxByte b) :: rest) :
    step s = .next ((((s.withInputs rest).writeBuf c.succ b).moveTo
      (.frameBody ⟨c.val + 1, Nat.succ_lt_succ hc⟩)).report .none) := by
  rw [step_rx hi (i := .readFrameBody b) (by simp only [h, rxInstr, Instr.ofBodyByte, if_pos hc]),
    exec_readFrameBody (by simpa using h) hc]

theorem step_last {b : Byte} {c : Fin 9} (h : s.seq = .frameBody c) (hc : c.val = 8)
    (hi : s.inputs = .rx (.rxByte b) :: rest) :
    step s = .next (((s.withInputs rest).writeBuf 9 b).deliver (decodeFrame s.cfg (s.writeBuf 9 b).frame)) := by
  have hn : ¬ c.val < 8 := by omega
  rw [step_rx hi (i := .readFrameLast b) (by simp only [h, rxInstr, Instr.ofBodyByte, if_neg hn]),
    exec_readFrameLast (by simpa using h) hc]
  rfl

theorem step_short {c : Fin 9} (h : s.seq = .frameBody c) (hi : s.inputs = .rx .rxEnd :: rest) :
    step s = .next ((s.withInputs rest).raise (.shortRead c)) := by
  rw [step_rx hi (i := .readFrameShort) (by simp only [h, rxInstr]), exec_readFrameShort (by simpa using h)]

theorem step_deliver (h : s.seq = .decoded) : step s = .next (s.deliver (decodeFrame s.cfg s.frame)) := by
  rw [step_decoded h, exec_ofFrame h]

/-- The next state of a step, kind by kind (R89, R67, R134, R35): the inversion lemma of the step. -/
inductive StepTo (s : State) : State → Prop where
  | deliver (h : s.seq = .decoded) : StepTo s (s.deliver (decodeFrame s.cfg s.frame))
  | silent (h : s.seq ≠ .decoded) (hi : s.inputs = []) : StepTo s (idleEdge s)
  | idle (rest : List Input) (h : s.seq ≠ .decoded) (hi : s.inputs = .idle :: rest) :
      StepTo s (idleEdge (s.withInputs rest))
  | reset (rest : List Input) (h : s.seq ≠ .decoded) (hi : s.inputs = .reset :: rest) :
      StepTo s (resetInput (s.withInputs rest))
  | request (cmd : Byte) (P : List Byte) (rest : List Input) (h : s.seq ≠ .decoded)
      (hi : s.inputs = .encReq cmd P :: rest) : StepTo s ((s.withInputs rest).answer (encodeFrame cmd P))
  | skip (b : Byte) (rest : List Input) (h : s.seq = .seekingStart) (hb : b ≠ START)
      (hi : s.inputs = .rx (.rxByte b) :: rest) : StepTo s ((s.withInputs rest).report .none)
  | start (rest : List Input) (h : s.seq = .seekingStart) (hi : s.inputs = .rx (.rxByte START) :: rest) :
      StepTo s ((((s.withInputs rest).writeBuf 0 START).moveTo (.frameBody 0)).report .none)
  | streamEnd (rest : List Input) (h : s.seq = .seekingStart) (hi : s.inputs = .rx .rxEnd :: rest) :
      StepTo s ((s.withInputs rest).raise .endOfStream)
  | body (b : Byte) (rest : List Input) (c : Fin 9) (h : s.seq = .frameBody c) (hc : c.val < 8)
      (hi : s.inputs = .rx (.rxByte b) :: rest) :
      StepTo s ((((s.withInputs rest).writeBuf c.succ b).moveTo
        (.frameBody ⟨c.val + 1, Nat.succ_lt_succ hc⟩)).report .none)
  | last (b : Byte) (rest : List Input) (c : Fin 9) (h : s.seq = .frameBody c) (hc : c.val = 8)
      (hi : s.inputs = .rx (.rxByte b) :: rest) :
      StepTo s (((s.withInputs rest).writeBuf 9 b).deliver (decodeFrame s.cfg (s.writeBuf 9 b).frame))
  | short (rest : List Input) (c : Fin 9) (h : s.seq = .frameBody c) (hi : s.inputs = .rx .rxEnd :: rest) :
      StepTo s ((s.withInputs rest).raise (.shortRead c))

/-- What a step can do, complete: it answers one of the states of `StepTo`, and each of them is its answer. -/
theorem step_eq_next_iff {t : State} : step s = .next t ↔ StepTo s t := by
  constructor
  · intro ht
    have key : ∀ {u : State}, StepTo s u → step s = .next u → StepTo s t := by
      intro u hu he
      rw [he] at ht
      cases ht
      exact hu
    cases hq : s.seq with
    | decoded => exact key (.deliver hq) (step_deliver hq)
    | seekingStart =>
      have hd : s.seq ≠ .decoded := by simp [hq]
      cases hi : s.inputs with
      | nil => exact key (.silent hd hi) (step_silent hd hi)
      | cons x rest =>
        cases x with
        | encReq cmd P => exact key (.request cmd P rest hd hi) (step_request hd hi)
        | idle => exact key (.idle rest hd hi) (step_idle hd hi)
        | reset => exact key (.reset rest hd hi) (step_reset hd hi)
        | rx ev =>
          cases ev with
          | rxEnd => exact key (.streamEnd rest hq hi) (step_end hq hi)
          | rxByte b =>
            by_cases hb : b = START
            · subst hb; exact key (.start rest hq hi) (step_start hq hi)
            · exact key (.skip b rest hq hb hi) (step_skip hq hb hi)
    | frameBody c =>
      have hd : s.seq ≠ .decoded := by simp [hq]
      cases hi : s.inputs with
      | nil => exact key (.silent hd hi) (step_silent hd hi)
      | cons x rest =>
        cases x with
        | encReq cmd P => exact key (.request cmd P rest hd hi) (step_request hd hi)
        | idle => exact key (.idle rest hd hi) (step_idle hd hi)
        | reset => exact key (.reset rest hd hi) (step_reset hd hi)
        | rx ev =>
          cases ev with
          | rxEnd => exact key (.short rest c hq hi) (step_short hq hi)
          | rxByte b =>
            by_cases hc : c.val < 8
            · exact key (.body b rest c hq hc hi) (step_body hq hc hi)
            · exact key (.last b rest c hq (by omega) hi) (step_last hq (by omega) hi)
  · intro h
    cases h with
    | deliver h => exact step_deliver h
    | silent h hi => exact step_silent h hi
    | idle rest h hi => exact step_idle h hi
    | reset rest h hi => exact step_reset h hi
    | request cmd P rest h hi => exact step_request h hi
    | skip b rest h hb hi => exact step_skip h hb hi
    | start rest h hi => exact step_start h hi
    | streamEnd rest h hi => exact step_end h hi
    | body b rest c h hc hi => exact step_body h hc hi
    | last b rest c h hc hi => exact step_last h hc hi
    | short rest c h hi => exact step_short h hi

end steps

end Sys2Proof.Machine
end

