-- ==== Sys2Proof/Laws/PerInstr.lean ====
section
/-! SUPPORT. Statements made per instruction: the words of a well-formed operation have the length of its format. -/

namespace Sys2Proof.Laws.WordLength

/-- The words of the operation, if it is well-formed under some parameter, have the length R57 gives its format. -/
def Statement (i : Instr) : Prop :=
  ∀ cfg : Config, i.wf cfg = true → (encode i).length = i.format.bytes

theorem request_length {cmd : Byte} {P : List Byte} (h : payloadFits P = true) :
    (outFrame cmd (padPayload P)).length = 19 := by
  have := length_padPayload (P := P) (by simpa [payloadFits] using h)
  simp [this]

theorem encSetmode (P : List Byte) : Statement (.encSetmode P) := fun _ h => request_length h
theorem encQuerydata (P : List Byte) : Statement (.encQuerydata P) := fun _ h => request_length h
theorem encDeviceid (P : List Byte) : Statement (.encDeviceid P) := fun _ h => request_length h
theorem encSleep (P : List Byte) : Statement (.encSleep P) := fun _ h => request_length h
theorem encFirmware (P : List Byte) : Statement (.encFirmware P) := fun _ h => request_length h
theorem encWorkingperiod (P : List Byte) : Statement (.encWorkingperiod P) := fun _ h => request_length h
theorem encReserved (cmd : Byte) (P : List Byte) : Statement (.encReserved cmd P) := fun _ h =>
  request_length ((Bool.and_eq_true _ _ ▸ h).2)
theorem decMeas (d : InPayload) (ck tm : Byte) : Statement (.decMeas d ck tm) := fun _ _ => rfl
theorem decDevinfo (ty : Byte) (d : InPayload) (ck tm : Byte) : Statement (.decDevinfo ty d ck tm) := fun _ _ => rfl
theorem decUnknown (ty : Byte) (d : InPayload) (ck tm : Byte) : Statement (.decUnknown ty d ck tm) := fun _ _ => rfl
theorem resyncStart : Statement .resyncStart := fun _ _ => rfl
theorem resyncSkip (b : Byte) : Statement (.resyncSkip b) := fun _ _ => rfl
theorem readFrameBody (b : Byte) : Statement (.readFrameBody b) := fun _ _ => rfl
theorem readFrameLast (b : Byte) : Statement (.readFrameLast b) := fun _ _ => rfl
theorem resyncEnd : Statement .resyncEnd := fun _ _ => rfl
theorem readFrameShort : Statement .readFrameShort := fun _ _ => rfl

end Sys2Proof.Laws.WordLength
end

