-- ==== Sys2Proof/Tests/Slice0.lean ====
section
/-! SUPPORT. The model's own tests.  Every expected value is taken from spec/95_test_vectors.md (named beside the test) or
worked out by hand from a table of the spec.  Then one witness for each clause of each statement that has hypotheses. -/

namespace Sys2Proof.Tests

open Sys2Proof.Machine

/-! ## Small states -/

/-- A decoder after reset but for its sequencer, buffer and inputs. -/
def decoderAt (q : Sequencer) (buf : List Byte) (inputs : List Input) : State :=
  { State.reset with seq := q, buf := bufOfList buf, inputs := inputs }

/-- The stream bytes as inputs. -/
def rxBytes (bs : List Byte) : List Input :=
  bs.map (fun b => .rx (.rxByte b))

/-- What a run ended in, if it did not stop. -/
def next? : Host.Outcome State Fault Refusal → Option State
  | .next t => some t
  | .fault _ => none
  | .refused _ => none

/-- The first nine bytes of vector V23. -/
def v23Body : List Byte := [0xAA, 0xC0, 0x64, 0x00, 0xE6, 0x00, 0x00, 0x00, 0x0A]

/-! ## WellFormed: each check refuses an ill-formed term -/

theorem test_wf_payload_of_12_fits : (Instr.encSetmode (List.replicate 12 0)).wf Config.default = true := by decide
theorem test_wf_setmode_payload_too_long : (Instr.encSetmode (List.replicate 13 0)).wf Config.default = false := by decide
theorem test_wf_querydata_payload_too_long :
    (Instr.encQuerydata (List.replicate 13 0)).wf Config.default = false := by decide
theorem test_wf_deviceid_payload_too_long :
    (Instr.encDeviceid (List.replicate 13 0)).wf Config.default = false := by decide
theorem test_wf_sleep_payload_too_long : (Instr.encSleep (List.replicate 13 0)).wf Config.default = false := by decide
theorem test_wf_firmware_payload_too_long :
    (Instr.encFirmware (List.replicate 13 0)).wf Config.default = false := by decide
theorem test_wf_workingperiod_payload_too_long :
    (Instr.encWorkingperiod (List.replicate 13 0)).wf Config.default = false := by decide
theorem test_wf_reserved_payload_too_long :
    (Instr.encReserved 3 (List.replicate 13 0)).wf Config.default = false := by decide
theorem test_wf_reserved_code_has_a_name : (Instr.encReserved 8 []).wf Config.default = false := by decide
theorem test_wf_devinfo_type_not_in_parameter :
    (Instr.decDevinfo 0xC5 ⟨0, 0, 0, 0, 0, 0⟩ 0 0).wf Config.default = false := by decide
theorem test_wf_devinfo_type_is_measurement :
    (Instr.decDevinfo 0xC0 ⟨0, 0, 0, 0, 0, 0⟩ 0 0).wf { devinfoTypes := [0xC0] } = false := by decide
theorem test_wf_unknown_type_is_measurement :
    (Instr.decUnknown 0xC0 ⟨0, 0, 0, 0, 0, 0⟩ 0 0).wf Config.default = false := by decide
theorem test_wf_unknown_type_in_parameter :
    (Instr.decUnknown 0xC1 ⟨0, 0, 0, 0, 0, 0⟩ 0 0).wf Config.default = false := by decide
theorem test_wf_skipped_start_byte : (Instr.resyncSkip 0xAA).wf Config.default = false := by decide
theorem test_wf_parameter_holds_measurement_type :
    Config.wf { devinfoTypes := [0xC1, 0xC0] } = false ∧ Config.wf { devinfoTypes := [0xC1, 0xC1] } = false ∧
    Config.wf Config.default = true := by decide

/-! ## Decode: words written out from the tables of R45, R46, R47, R48, R57 -/

/-- Vector V11. -/
theorem test_decode_setmode : decode Config.default .encoder
    [0xAA, 0xB4, 0x02, 0x01, 0x01, 0, 0, 0, 0, 0, 0, 0, 0, 0, 0, 0xFF, 0xFF, 0x02, 0xAB]
    = .instr (.encSetmode [1, 1, 0, 0, 0, 0, 0, 0, 0, 0, 0, 0]) := by decide
/-- Vector V20. -/
theorem test_decode_querydata : decode Config.default .encoder
    [0xAA, 0xB4, 0x04, 0xAA, 0xAB, 0, 0, 0, 0, 0, 0, 0, 0, 0, 0, 0xFF, 0xFF, 0x57, 0xAB]
    = .instr (.encQuerydata [0xAA, 0xAB, 0, 0, 0, 0, 0, 0, 0, 0, 0, 0]) := by decide
/-- Vector V13. -/
theorem test_decode_deviceid : decode Config.default .encoder
    [0xAA, 0xB4, 0x05, 0, 0, 0, 0, 0, 0, 0, 0, 0, 0, 0xA1, 0x60, 0xFF, 0xFF, 0x04, 0xAB]
    = .instr (.encDeviceid [0, 0, 0, 0, 0, 0, 0, 0, 0, 0, 0xA1, 0x60]) := by decide
/-- Vector V14. -/
theorem test_decode_sleep : decode Config.default .encoder
    [0xAA, 0xB4, 0x06, 0x01, 0, 0, 0, 0, 0, 0, 0, 0, 0, 0, 0, 0xFF, 0xFF, 0x05, 0xAB]
    = .instr (.encSleep [1, 0, 0, 0, 0, 0, 0, 0, 0, 0, 0, 0]) := by decide
/-- Vector V15. -/
theorem test_decode_firmware : decode Config.default .encoder
    [0xAA, 0xB4, 0x07, 0, 0, 0, 0, 0, 0, 0, 0, 0, 0, 0, 0, 0xFF, 0xFF, 0x05, 0xAB]
    = .instr (.encFirmware [0, 0, 0, 0, 0, 0, 0, 0, 0, 0, 0, 0]) := by decide
/-- Vector V16. -/
theorem test_decode_workingperiod : decode Config.default .encoder
    [0xAA, 0xB4, 0x08, 0x01, 0x1E, 0, 0, 0, 0, 0, 0, 0, 0, 0, 0, 0xFF, 0xFF, 0x25, 0xAB]
    = .instr (.encWorkingperiod [1, 30, 0, 0, 0, 0, 0, 0, 0, 0, 0, 0]) := by decide
/-- Vector V21e. -/
theorem test_decode_reserved : decode Config.default .encoder
    [0xAA, 0xB4, 0x09, 0x07, 0, 0, 0, 0, 0, 0, 0, 0, 0, 0, 0, 0xFF, 0xFF, 0x0E, 0xAB]
    = .instr (.encReserved 9 [7, 0, 0, 0, 0, 0, 0, 0, 0, 0, 0, 0]) := by decide
/-- Vector V28. -/
theorem test_decode_meas : decode Config.default (.decoder .decoded)
    [0xAA, 0xC0, 0x7B, 0x00, 0xC8, 0x01, 0x5A, 0xA5, 0x03, 0xAB]
    = .instr (.decMeas ⟨0x7B, 0x00, 0xC8, 0x01, 0x5A, 0xA5⟩ 0x03 0xAB) := by decide
/-- Vector V30. -/
theorem test_decode_devinfo : decode Config.default (.decoder .decoded)
    [0xAA, 0xC1, 0x0F, 0x07, 0x19, 0xA1, 0x60, 0x77, 0x68, 0xAB]
    = .instr (.decDevinfo 0xC1 ⟨0x0F, 0x07, 0x19, 0xA1, 0x60, 0x77⟩ 0x68 0xAB) := by decide
/-- Vector V31. -/
theorem test_decode_unknown : decode Config.default (.decoder .decoded)
    [0xAA, 0x99, 0x01, 0x02, 0x03, 0x04, 0x05, 0x06, 0xAE, 0xAB]
    = .instr (.decUnknown 0x99 ⟨1, 2, 3, 4, 5, 6⟩ 0xAE 0xAB) := by decide
theorem test_decode_start : decode Config.default (.decoder .seekingStart) [0xAA] = .instr .resyncStart := by decide
theorem test_decode_skip :
    decode Config.default (.decoder .seekingStart) [0xC0] = .instr (.resyncSkip 0xC0) := by decide
theorem test_decode_end : decode Config.default (.decoder .seekingStart) [] = .instr .resyncEnd := by decide
theorem test_decode_body :
    decode Config.default (.decoder (.frameBody 7)) [0xAB] = .instr (.readFrameBody 0xAB) := by decide
theorem test_decode_last :
    decode Config.default (.decoder (.frameBody 8)) [0xAA] = .instr (.readFrameLast 0xAA) := by decide
theorem test_decode_short : decode Config.default (.decoder (.frameBody 0)) [] = .instr .readFrameShort := by decide
/-- R45: a wrong constant and a wrong length are rejected by name. -/
theorem test_decode_rejects_by_name :
    decode Config.default .encoder
      [0xAA, 0xB4, 0x04, 0, 0, 0, 0, 0, 0, 0, 0, 0, 0, 0, 0, 0xFF, 0xFE, 0x02, 0xAB] = .rejected (.constant 16) ∧
    decode Config.default .encoder [0xAA, 0xB4] = .rejected (.length 19 2) ∧
    decode Config.default (.decoder .decoded) [0xAB, 0xC0, 0, 0, 0, 0, 0, 0, 0, 0] = .rejected (.constant 0) ∧
    decode Config.default (.decoder .seekingStart) [1, 2] = .rejected (.length 1 2) := by decide
/-- The host's numbering: bit 0 is the least significant bit of the first byte (vector V14 as a number). -/
theorem test_decode_table_word :
    decodeTableWord 152 0xAB05FFFF00000000000000000000000106B4AA = some (.encSleep [1, 0, 0, 0, 0, 0, 0, 0, 0, 0, 0, 0]) ∧
    decodeTableWord 80 0xAB0A000000E60064C0AA = some (.decMeas ⟨0x64, 0, 0xE6, 0, 0, 0⟩ 0x0A 0xAB) ∧
    decodeTableWord 8 0xAA = some .resyncStart ∧ decodeTableWord 0 0 = some .resyncEnd := by decide
/-- R57: the table's own writing, frame offset 0 leftmost; a terminator byte `0xAA` (V42) does not turn it round. -/
theorem test_decode_table_word_leftmost :
    decodeTableWord 80 0xAAC000000000000000AA = some (.decMeas ⟨0, 0, 0, 0, 0, 0⟩ 0 0xAA) ∧
    decodeTableWord 80 0xAAC06400E60000000AAA = some (.decMeas ⟨0x64, 0, 0xE6, 0, 0, 0⟩ 0x0A 0xAA) ∧
    decodeTableWord 152 0xAAB402000000000000000000000000FFFF00AB =
      some (.encSetmode (List.replicate 12 0)) := by decide

/-! ## Encoder -/

/-- Vectors V22c, V11. -/
theorem test_setmode : encodeFrame 2 [1, 1] =
    .txFrame [0xAA, 0xB4, 0x02, 0x01, 0x01, 0, 0, 0, 0, 0, 0, 0, 0, 0, 0, 0xFF, 0xFF, 0x02, 0xAB] := by decide
/-- S1, the source's own example. -/
theorem test_querydata : (next? (exec (.encQuerydata []) State.reset)).map State.encOut =
    some (.txFrame [0xAA, 0xB4, 0x04, 0, 0, 0, 0, 0, 0, 0, 0, 0, 0, 0, 0, 0xFF, 0xFF, 0x02, 0xAB]) := by decide
/-- Vector V19. -/
theorem test_querydata_too_long : (next? (exec (.encQuerydata (List.replicate 13 0)) State.reset)).map State.encOut =
    some (.payloadTooLarge 13) := by decide
/-- Vector V13. -/
theorem test_deviceid :
    (next? (exec (.encDeviceid [0, 0, 0, 0, 0, 0, 0, 0, 0, 0, 0xA1, 0x60]) State.reset)).map State.encOut =
    some (.txFrame [0xAA, 0xB4, 0x05, 0, 0, 0, 0, 0, 0, 0, 0, 0, 0, 0xA1, 0x60, 0xFF, 0xFF, 0x04, 0xAB]) := by decide
/-- Vector V14. -/
theorem test_sleep : (next? (exec (.encSleep [1, 0]) State.reset)).map State.encOut =
    some (.txFrame [0xAA, 0xB4, 0x06, 0x01, 0, 0, 0, 0, 0, 0, 0, 0, 0, 0, 0, 0xFF, 0xFF, 0x05, 0xAB]) := by decide
/-- Vector V15. -/
theorem test_firmware : (next? (exec (.encFirmware []) State.reset)).map State.encOut =
    some (.txFrame [0xAA, 0xB4, 0x07, 0, 0, 0, 0, 0, 0, 0, 0, 0, 0, 0, 0, 0xFF, 0xFF, 0x05, 0xAB]) := by decide
/-- Vector V17. -/
theorem test_workingperiod :
    (next? (exec (.encWorkingperiod (List.replicate 12 0xFF)) State.reset)).map State.encOut =
    some (.txFrame ([0xAA, 0xB4, 0x08] ++ List.replicate 12 0xFF ++ [0xFF, 0xFF, 0xFA, 0xAB])) := by decide
/-- Vectors V21a, V21b: the floored modulus. -/
theorem test_reserved_negative_sums : chkOut 0 (List.replicate 12 0) = 0xFE ∧ chkOut 1 (List.replicate 12 0) = 0xFF := by
  decide
/-- Vector V21d. -/
theorem test_reserved :
    (next? (exec (.encReserved 0xFF (List.replicate 12 0xFF)) State.reset)).map State.encOut =
    some (.txFrame ([0xAA, 0xB4, 0xFF] ++ List.replicate 12 0xFF ++ [0xFF, 0xFF, 0xF1, 0xAB])) := by decide
/-- Vector V22: lanes at and above `enc_len` are ignored; the frame is that of V14, lane 0 least significant. -/
theorem test_encoder_ports :
    encPorts { enc_cmd := 6, enc_len := 2, enc_data := 0xADDEEFBEADDEEFBEADDE0001 } =
      { enc_ok := true, enc_err_too_large := false, enc_frame := 0xAB05FFFF00000000000000000000000106B4AA } := by decide
/-- Vector V22b, the report only: no test looks at the zero lanes. -/
theorem test_encoder_ports_refuse :
    (encPorts { enc_cmd := 4, enc_len := 13, enc_data := 0 }).enc_ok = false ∧
    (encPorts { enc_cmd := 4, enc_len := 13, enc_data := 0 }).enc_err_too_large = true := by decide

/-! ## Decoder -/

/-- S5 event 1 and rule R81. -/
theorem test_skip : next? (step (decoderAt .seekingStart [1, 2, 3] (rxBytes [0x13, 0x37]))) =
    some (decoderAt .seekingStart [1, 2, 3] (rxBytes [0x37])) := by decide
/-- R82: `buf[1..9]` keep what they held. -/
theorem test_start : next? (step (decoderAt .seekingStart [1, 2, 3] (rxBytes [0xAA, 0xC0]))) =
    some (decoderAt (.frameBody 0) [0xAA, 2, 3] (rxBytes [0xC0])) := by decide
/-- Vector V36. -/
theorem test_end : next? (step (decoderAt .seekingStart [] [.rx .rxEnd, .rx .rxEnd])) =
    some { decoderAt .seekingStart [] [.rx .rxEnd] with decOut := .err .endOfStream } := by decide
/-- R84's worked example, and a start byte stored as data (V34). -/
theorem test_body_first : next? (step (decoderAt (.frameBody 0) [0xAA] (rxBytes [0xC0]))) =
    some (decoderAt (.frameBody 1) [0xAA, 0xC0] []) := by decide
theorem test_body_last_place : next? (step (decoderAt (.frameBody 7) [0xAA] (rxBytes [0xAA]))) =
    some (decoderAt (.frameBody 8) [0xAA, 0, 0, 0, 0, 0, 0, 0, 0xAA] []) := by decide
/-- Vector V23. -/
theorem test_last_good_frame : next? (step (decoderAt (.frameBody 8) v23Body (rxBytes [0xAB]))) =
    some { decoderAt .seekingStart (v23Body ++ [0xAB]) [] with
      decOut := .frame ⟨.measurement 100 230, true, true, 0xC0, ⟨0x64, 0, 0xE6, 0, 0, 0⟩⟩ } := by decide
/-- Vector V42: a wrong terminator `0xAA` completes the frame and starts nothing. -/
theorem test_last_bad_terminator : next? (step (decoderAt (.frameBody 8) v23Body (rxBytes [0xAA]))) =
    some { decoderAt .seekingStart (v23Body ++ [0xAA]) [] with
      decOut := .frame ⟨.measurement 100 230, true, false, 0xC0, ⟨0x64, 0, 0xE6, 0, 0, 0⟩⟩ } := by decide
/-- Vector V37 (a) and (b). -/
theorem test_short_after_start : next? (step (decoderAt (.frameBody 0) [0xAA] [.rx .rxEnd])) =
    some { decoderAt .seekingStart [0xAA] [] with decOut := .err (.shortRead 0) } := by decide
theorem test_short_before_terminator : next? (step (decoderAt (.frameBody 8) v23Body [.rx .rxEnd])) =
    some { decoderAt .seekingStart v23Body [] with decOut := .err (.shortRead 8) } := by decide
/-- S2: the source's literal frame, whose checksum byte is wrong by its own formula. -/
theorem test_meas_source_literal : (next? (exec (.decMeas ⟨0x64, 0, 0xE6, 0, 0, 0⟩ 0xAA 0xAB)
      (decoderAt .decoded [0xAA, 0xC0, 0x64, 0, 0xE6, 0, 0, 0, 0xAA, 0xAB] []))).map State.decOut =
    some (.frame ⟨.measurement 100 230, false, true, 0xC0, ⟨0x64, 0, 0xE6, 0, 0, 0⟩⟩) := by decide
/-- Vector V26: the values are unsigned. -/
theorem test_meas_unsigned :
    measResult ⟨0xAA, 0xC0, ⟨0xFF, 0xFF, 0xFF, 0xFF, 0, 0⟩, 0xBC, 0xAB⟩ =
      ⟨.measurement 65535 65535, true, true, 0xC0, ⟨0xFF, 0xFF, 0xFF, 0xFF, 0, 0⟩⟩ := by decide
/-- Vector V30. -/
theorem test_devinfo : (next? (exec (.decDevinfo 0xC1 ⟨0x0F, 0x07, 0x19, 0xA1, 0x60, 0x77⟩ 0x68 0xAB)
      (decoderAt .decoded [] []))).map State.decOut =
    some (.frame ⟨.deviceInfo 15 7 25 0x60A1, true, true, 0xC1, ⟨0x0F, 0x07, 0x19, 0xA1, 0x60, 0x77⟩⟩) := by decide
/-- Vector V31. -/
theorem test_unknown : (next? (exec (.decUnknown 0x99 ⟨1, 2, 3, 4, 5, 6⟩ 0xAE 0xAB)
      (decoderAt .decoded [] []))).map State.decOut =
    some (.frame ⟨.unknown, true, true, 0x99, ⟨1, 2, 3, 4, 5, 6⟩⟩) := by decide
/-- Vector V32c. -/
theorem test_unknown_all_start_bytes : chkIn (frameOf (bufOfList (List.replicate 10 0xAA))) = 0xA6 := by decide

/-! ## Where the host places a table word -/

/-- V23 as a number: the next step runs `DEC.MEAS`. -/
theorem test_fetch_word_frame :
    (next? (step (State.reset.withFetchWord 80 0xAB0A000000E60064C0AA))).map State.decOut =
      some (.frame ⟨.measurement 100 230, true, true, 0xC0, ⟨0x64, 0, 0xE6, 0, 0, 0⟩⟩) := by decide
/-- V14 as a number: the next step runs `ENC.SLEEP`. -/
theorem test_fetch_word_request :
    fetch (State.reset.withFetchWord 152 0xAB05FFFF00000000000000000000000106B4AA) =
      .run (.encSleep [1, 0, 0, 0, 0, 0, 0, 0, 0, 0, 0, 0]) State.reset := by decide
/-- The same order where the host places a word: the row run is the one the table writes. -/
theorem test_fetch_word_leftmost :
    (next? (step (State.reset.withFetchWord 80 0xAAC06400E60000000AAA))).map State.decOut =
      some (.frame ⟨.measurement 100 230, true, false, 0xC0, ⟨0x64, 0, 0xE6, 0, 0, 0⟩⟩) := by decide
theorem test_fetch_word_stream :
    fetch (State.reset.withFetchWord 8 0xAA) = .run .resyncStart State.reset ∧
    fetch (State.reset.withFetchWord 0 0) = .run .resyncEnd State.reset := by decide

/-! ## Witnesses: for each clause of each statement with hypotheses, a state and operands that meet them -/

theorem witness_payload_lengths :
    (List.replicate 12 (0 : Byte)).length ≤ 12 ∧ 12 < (List.replicate 13 (0 : Byte)).length := by decide
theorem witness_ReservedCommandForm :
    (∀ c : Byte, c ∈ ([0, 1, 3, 9, 0xFF] : List Byte) → c ∉ ([2, 4, 5, 6, 7, 8] : List Byte)) ∧
    (List.replicate 12 (0 : Byte)).length ≤ 12 ∧ 12 < (List.replicate 13 (0 : Byte)).length := by decide
/-- For the statements about a frame produced: an empty and a full payload (V12, V17). -/
theorem witness_frame_produced :
    encodeFrame 4 [] =
      .txFrame [0xAA, 0xB4, 0x04, 0, 0, 0, 0, 0, 0, 0, 0, 0, 0, 0, 0, 0xFF, 0xFF, 0x02, 0xAB] ∧
    encodeFrame 8 (List.replicate 12 0xFF) =
      .txFrame ([0xAA, 0xB4, 0x08] ++ List.replicate 12 0xFF ++ [0xFF, 0xFF, 0xFA, 0xAB]) := by decide
theorem witness_TrailingZerosInvisible : ([7] : List Byte).length + 11 ≤ 12 ∧ ([] : List Byte).length + 12 ≤ 12 := by
  decide
theorem witness_ChecksumIsByteAccumulation : ([1, 2, 3] : List Byte).Perm [3, 1, 2] := by decide
theorem witness_AgentsDoNotInterfere :
    (decoderAt (.frameBody 2) [0xAA] [.encReq 4 [], .rx (.rxByte 1), .idle, .encReq 6 [1], .rx .rxEnd, .reset]).seq
      ≠ .decoded ∧
    (decoderAt (.frameBody 2) [0xAA] [.encReq 4 [], .rx (.rxByte 1), .idle, .encReq 6 [1], .rx .rxEnd, .reset]).inputs
      = [.encReq 4 [], .rx (.rxByte 1), .idle, .encReq 6 [1], .rx .rxEnd, .reset] := by decide
/-- SoftFailuresChangeOnlyFlags, CompletingStepRunsDecRow, ReadLastStep, ConditionsOfOutputs. -/
theorem witness_completing_step :
    (decoderAt (.frameBody 8) v23Body (rxBytes [0xAB])).seq = .frameBody 8 ∧
    (decoderAt (.frameBody 8) v23Body (rxBytes [0xAB])).inputs = .rx (.rxByte 0xAB) :: [] := by decide
theorem witness_ResyncSkipStep :
    (decoderAt .seekingStart [] (rxBytes [0xAB])).seq = .seekingStart ∧ (0xAB : Byte) ≠ 0xAA ∧
    (decoderAt .seekingStart [] (rxBytes [0xAB])).inputs = .rx (.rxByte 0xAB) :: [] := by decide
theorem witness_ResyncStartStep :
    (decoderAt .seekingStart [] (rxBytes [0xAA])).seq = .seekingStart ∧
    (decoderAt .seekingStart [] (rxBytes [0xAA])).inputs = .rx (.rxByte 0xAA) :: [] := by decide
theorem witness_ResyncEndStep :
    (decoderAt .seekingStart [] [.rx .rxEnd]).seq = .seekingStart ∧
    (decoderAt .seekingStart [] [.rx .rxEnd]).inputs = .rx .rxEnd :: [] := by decide
theorem witness_ReadBodyStep_first : (0 : Fin 9).val < 8 ∧
    (decoderAt (.frameBody 0) [0xAA] (rxBytes [0xAA])).seq = .frameBody 0 ∧
    (decoderAt (.frameBody 0) [0xAA] (rxBytes [0xAA])).inputs = .rx (.rxByte 0xAA) :: [] := by decide
theorem witness_ReadBodyStep_last : (7 : Fin 9).val < 8 ∧
    (decoderAt (.frameBody 7) [0xAA] (rxBytes [0xAA])).seq = .frameBody 7 ∧
    (decoderAt (.frameBody 7) [0xAA] (rxBytes [0xAA])).inputs = .rx (.rxByte 0xAA) :: [] := by decide
theorem witness_ReadShortStep :
    (decoderAt (.frameBody 0) [0xAA] [.rx .rxEnd]).seq = .frameBody 0 ∧
    (decoderAt (.frameBody 8) [0xAA] [.rx .rxEnd]).seq = .frameBody 8 ∧
    (decoderAt (.frameBody 8) [0xAA] [.rx .rxEnd]).inputs = .rx .rxEnd :: [] := by decide
/-- MeasurementRecord, DeviceInfoRecord, UnknownRecord, DispatchByTypeByte, FieldsAreLittleEndian: the three kinds of type
byte, and the transient state the rows run in. -/
theorem witness_typed_records :
    (decoderAt .decoded [] []).seq = .decoded ∧
    (bufOfList [0xAA, 0xC0])[1] = 0xC0 ∧
    (bufOfList [0xAA, 0xC1])[1] ≠ 0xC0 ∧ (bufOfList [0xAA, 0xC1])[1] ∈ Config.default.devinfoTypes ∧
    (bufOfList [0xAA, 0xC2])[1] ≠ 0xC0 ∧ (bufOfList [0xAA, 0xC2])[1] ∉ Config.default.devinfoTypes := by decide
/-- The parameter badly chosen: the order of the tests decides (R94). -/
theorem witness_DispatchByTypeByte_overlap :
    (frameOf (bufOfList [0xAA, 0xC0])).type = 0xC0 ∧
    (frameOf (bufOfList [0xAA, 0xC0])).type ∈ ({ devinfoTypes := [0xC0] } : Config).devinfoTypes := by decide
theorem witness_StepIsDecoderStepFunction :
    storedPair (decoderAt .seekingStart [] [.rx .rxEnd]).seq = some (.seekingStart, 0) ∧
    storedPair (decoderAt (.frameBody 8) [] (rxBytes [1])).seq = some (.frameBody, 8) ∧
    (decoderAt (.frameBody 8) [] (rxBytes [1])).inputs = .rx (.rxByte 1) :: [] := by decide
theorem witness_OperationsRunWhereSelected :
    (Instr.encSleep []).selectedIn .encoder = true ∧
    (Instr.readFrameLast 0).selectedIn (.decoder (decoderAt (.frameBody 8) [] []).seq) = true ∧
    (Instr.readFrameBody 0).selectedIn .encoder = false ∧
    (Instr.readFrameBody 0).selectedIn (.decoder (decoderAt (.frameBody 8) [] []).seq) = false := by decide
theorem witness_StepRunsDecodedOperation_byte :
    (decoderAt (.frameBody 8) [] (rxBytes [0xAB])).seq ≠ .decoded ∧
    (decoderAt (.frameBody 8) [] (rxBytes [0xAB])).inputs = .rx (.rxByte 0xAB) :: [] ∧
    decode Config.default (.decoder (decoderAt (.frameBody 8) [] (rxBytes [0xAB])).seq) [0xAB]
      = .instr (.readFrameLast 0xAB) := by decide
theorem witness_StepRunsDecodedOperation_end :
    (decoderAt (.frameBody 0) [] [.rx .rxEnd]).seq ≠ .decoded ∧
    (decoderAt (.frameBody 0) [] [.rx .rxEnd]).inputs = .rx .rxEnd :: [] ∧
    decode Config.default (.decoder (decoderAt (.frameBody 0) [] [.rx .rxEnd]).seq) [] = .instr .readFrameShort := by
  decide
/-- The frame of V14 and the request it carries. -/
def v14 : List Byte := [0xAA, 0xB4, 0x06, 0x01, 0, 0, 0, 0, 0, 0, 0, 0, 0, 0, 0, 0xFF, 0xFF, 0x05, 0xAB]
theorem witness_StepRunsDecodedOperation_request :
    (decoderAt .seekingStart [] [.encReq 6 [1, 0, 0, 0, 0, 0, 0, 0, 0, 0, 0, 0]]).seq ≠ .decoded ∧
    (decoderAt .seekingStart [] [.encReq 6 [1, 0, 0, 0, 0, 0, 0, 0, 0, 0, 0, 0]]).inputs
      = .encReq (v14.getD 2 0) ((v14.drop 3).take 12) :: [] ∧
    decode Config.default .encoder v14 = .instr (.encSleep [1, 0, 0, 0, 0, 0, 0, 0, 0, 0, 0, 0]) := by decide
theorem witness_StepRunsDecodedOperation_frame :
    (decoderAt .decoded (v23Body ++ [0xAB]) []).seq = .decoded ∧
    decode Config.default (.decoder .decoded) (decoderAt .decoded (v23Body ++ [0xAB]) []).buf.toList
      = .instr (.decMeas ⟨0x64, 0, 0xE6, 0, 0, 0⟩ 0x0A 0xAB) := by decide

/-- A state in mid-frame, a request answered before, meets the invariant. -/
def midFrame : State :=
  { decoderAt (.frameBody 8) v23Body (rxBytes [0xAB]) with encOut := .txFrame v14 }
theorem witness_StepKeepsInvariant : midFrame.Inv ∧ ∃ t, step midFrame = .next t := by
  refine ⟨⟨by decide, fun _ _ => by decide, fun F h => ?_, fun n h => ?_, fun r h => ?_, by decide⟩, ?_⟩
  · cases h
    exact ⟨6, [1, 0, 0, 0, 0, 0, 0, 0, 0, 0, 0, 0], by decide, by decide⟩
  · cases h
  · cases h
  · exact ⟨_, step_last (c := 8) (b := 0xAB) (rest := []) rfl rfl rfl⟩
/-- A state that shows a delivered result meets the invariant: ResultPortsShowResult. -/
def delivered : State :=
  { decoderAt .seekingStart (v23Body ++ [0xAB]) [] with
    decOut := .frame ⟨.measurement 100 230, true, true, 0xC0, ⟨0x64, 0, 0xE6, 0, 0, 0⟩⟩ }
theorem witness_ResultPortsShowResult : delivered.Inv ∧
    delivered.decOut = .frame ⟨.measurement 100 230, true, true, 0xC0, ⟨0x64, 0, 0xE6, 0, 0, 0⟩⟩ := by
  refine ⟨⟨by decide, fun _ h => ?_, fun F h => ?_, fun n h => ?_, fun r h => ?_, by decide⟩, rfl⟩
  · cases h
  · cases h
  · cases h
  · cases h
    decide
/-- The same for the two other kinds of result (V29, V31). -/
theorem witness_ResultPortsShowResult_kinds :
    decodeFrame Config.default (frameOf (bufOfList [0xAA, 0xC1, 0x12, 0x0B, 0x0F, 0x34, 0x12, 0x00, 0x33, 0xAB]))
      = ⟨.deviceInfo 18 11 15 4660, true, true, 0xC1, ⟨0x12, 0x0B, 0x0F, 0x34, 0x12, 0⟩⟩ ∧
    decodeFrame Config.default (frameOf (bufOfList [0xAA, 0x99, 1, 2, 3, 4, 5, 6, 0xAE, 0xAB]))
      = ⟨.unknown, true, true, 0x99, ⟨1, 2, 3, 4, 5, 6⟩⟩ := by decide
theorem witness_ParameterNeverChanges : ∃ t, steps 1 midFrame = .next t :=
  ⟨_, by rw [steps_one]; exact step_last (c := 8) (b := 0xAB) (rest := []) rfl rfl rfl⟩
theorem witness_BodyBytesHeldInOrder :
    ([] : List Byte).length ≤ 8 ∧ (v23Body.drop 1).length ≤ 8 ∧
    (decoderAt .seekingStart [] (rxBytes v23Body)).seq = .seekingStart ∧
    (decoderAt .seekingStart [] (rxBytes v23Body)).inputs
      = (0xAA :: v23Body.drop 1).map (fun b => .rx (.rxByte b)) ++ [] ∧
    (decoderAt .seekingStart [] (rxBytes [0xAA])).inputs
      = (0xAA :: ([] : List Byte)).map (fun b => .rx (.rxByte b)) ++ [] := by decide
theorem witness_ResyncConsumesUpToStart :
    (0xAA : Byte) ∉ ([0x00, 0x13] : List Byte) ∧ (0xAA : Byte) ∉ ([] : List Byte) ∧
    (decoderAt .seekingStart [] (rxBytes [0x00, 0x13, 0xAA])).seq = .seekingStart ∧
    (decoderAt .seekingStart [] (rxBytes [0x00, 0x13, 0xAA])).inputs
      = ([0x00, 0x13] : List Byte).map (fun b => .rx (.rxByte b)) ++ .rx (.rxByte 0xAA) :: [] ∧
    (decoderAt .seekingStart [] [.rx .rxEnd]).inputs
      = ([] : List Byte).map (fun b => .rx (.rxByte b)) ++ .rx .rxEnd :: [] ∧
    0 < 2 ∧ 2 ≤ ([0x00, 0x13] : List Byte).length := by decide
/-- The four answers of `read_frame`: V23 after a skipped byte, S6, V37 (a) and (b), and a stream that goes quiet. -/
theorem witness_ReadFrameIsRunOfSteps :
    readFrame ((0x13 :: v23Body ++ [0xAB, 0x01]).map .rxByte) = .frame (v23Body ++ [0xAB]) [.rxByte 0x01] ∧
    readFrame [.rxByte 1, .rxEnd, .rxEnd] = .endOfStream [.rxEnd] ∧
    readFrame [.rxByte 0xAA, .rxEnd] = .shortRead 0 [] ∧
    readFrame (v23Body.map .rxByte ++ [.rxEnd]) = .shortRead 8 [] ∧
    readFrame (v23Body.map .rxByte) = .waiting ∧ v23Body.map RxEvent.rxByte ≠ [] := by decide
/-- Two different states that agree on what is written: the buffers differ from offset 2 on. -/
theorem witness_UnwrittenBufferUnobservable :
    (decoderAt (.frameBody 1) [0xAA, 0xC0, 1] (rxBytes [5])).AgreeOnWritten
      (decoderAt (.frameBody 1) [0xAA, 0xC0, 2] (rxBytes [5])) ∧
    decoderAt (.frameBody 1) [0xAA, 0xC0, 1] (rxBytes [5]) ≠ decoderAt (.frameBody 1) [0xAA, 0xC0, 2] (rxBytes [5]) ∧
    ∃ t, step (decoderAt (.frameBody 1) [0xAA, 0xC0, 1] (rxBytes [5])) = .next t := by
  refine ⟨⟨rfl, by decide, rfl, rfl, rfl, rfl, rfl, fun c h => ?_⟩, by decide, ?_⟩
  · cases h
    decide
  · exact ⟨_, step_body (c := 1) (b := 5) (rest := []) rfl (by decide) rfl⟩
theorem witness_ReportsOfStreamEvents :
    (decoderAt (.frameBody 8) v23Body (rxBytes [0xAB])).seq ≠ .decoded ∧
    (decoderAt (.frameBody 8) v23Body (rxBytes [0xAB])).inputs = .rx (.rxByte 0xAB) :: [] ∧
    next? (step (decoderAt (.frameBody 8) v23Body (rxBytes [0xAB]))) = some delivered := by decide
/-- Vector V38. -/
theorem witness_LoopedBackFrameIsUnknown :
    (0xB4 : Byte) ∉ Config.default.devinfoTypes ∧
    encodeFrame 4 [] =
      .txFrame [0xAA, 0xB4, 0x04, 0, 0, 0, 0, 0, 0, 0, 0, 0, 0, 0, 0, 0xFF, 0xFF, 0x02, 0xAB] ∧
    (decoderAt .seekingStart []
        (rxBytes [0xAA, 0xB4, 0x04, 0, 0, 0, 0, 0, 0, 0, 0, 0, 0, 0, 0, 0xFF, 0xFF, 0x02, 0xAB])).inputs =
      ([0xAA, 0xB4, 0x04, 0, 0, 0, 0, 0, 0, 0, 0, 0, 0, 0, 0, 0xFF, 0xFF, 0x02, 0xAB] : List Byte).map
        (fun b => .rx (.rxByte b)) ++ [] := by decide
/-- ResetInMidFrameReportsNothing and SilenceHoldsState, in mid-frame. -/
theorem witness_reset_and_silence :
    (decoderAt (.frameBody 3) [0xAA] [.reset]).seq ≠ .decoded ∧
    (decoderAt (.frameBody 3) [0xAA] [.reset]).inputs = .reset :: [] ∧
    (decoderAt (.frameBody 3) [0xAA] [.idle]).inputs = .idle :: [] ∧
    (decoderAt (.frameBody 3) [0xAA] []).inputs = [] := by decide
theorem witness_InstancesAreIndependent :
    ([State.reset, midFrame])[1]? = some midFrame ∧ (0 : Nat) ≠ 1 := by decide
/-- The four kinds of clock edge, the two collisions among them. -/
theorem witness_ClockEdgePriority :
    State.reset.seq ≠ .decoded ∧
    DecPortIn.input ⟨true, true, 5, true⟩ = .reset ∧ DecPortIn.input ⟨false, true, 5, true⟩ = .rx .rxEnd ∧
    DecPortIn.input ⟨false, true, 5, false⟩ = .rx (.rxByte 5) ∧ DecPortIn.input ⟨false, false, 5, false⟩ = .idle := by
  decide
theorem witness_OneReportPerCycle :
    (decPorts delivered).frame_done = true ∧
    (decPorts { State.reset with decOut := .err .endOfStream }).err_eos = true ∧
    (decPorts { State.reset with decOut := .err (.shortRead 8) }).err_short_cnt = some 8 := by decide
theorem witness_EncoderPortsPresentFrame :
    (EncPortIn.mk 4 12 0).enc_len.toNat ≤ 12 ∧ 13 ≤ (EncPortIn.mk 4 13 0).enc_len.toNat := by decide
theorem witness_UnusedLanesIgnored :
    (EncPortIn.mk 6 2 0xADDEEFBEADDEEFBEADDE0001).enc_data ≠ (EncPortIn.mk 6 2 1).enc_data ∧
    ∀ i, i < 2 → lane (EncPortIn.mk 6 2 0xADDEEFBEADDEEFBEADDE0001).enc_data i = lane (EncPortIn.mk 6 2 1).enc_data i := by
  decide
theorem witness_StatusViewShowsSequencer :
    State.reset.seq = .seekingStart ∧ (decPorts midFrame).dec_state = some 1 ∧ (decPorts midFrame).dec_cnt = some 8 := by
  decide
theorem witness_ConditionsOfOutputs :
    Condition.shortRead 0 ∈ (DecOut.err (.shortRead 0)).conditions ∧ (Condition.shortRead 0).cls = .hard := by decide
/-- R104's table: V23 carries no condition (code 0), V25 both soft failures, V31 the unknown type; V19 is refused. -/
theorem test_codes :
    (DecOut.frame (decodeFrame Config.default (frameOf (bufOfList (v23Body ++ [0xAB]))))).codes = [0] ∧
    (DecOut.frame (decodeFrame Config.default
      (frameOf (bufOfList [0xAA, 0xC0, 0x64, 0, 0xE6, 0, 0, 0, 0x0B, 0x00])))).codes = [4, 5] ∧
    (DecOut.frame (decodeFrame Config.default
      (frameOf (bufOfList [0xAA, 0x99, 1, 2, 3, 4, 5, 6, 0xAE, 0xAB])))).codes = [6] ∧
    (encodeFrame 4 (List.replicate 13 0)).codes = [1] ∧ (encodeFrame 4 (List.replicate 12 0)).codes = [0] := by decide
/-- A condition of an output; the completing step is witnessed in `witness_completing_step`. -/
theorem witness_CodesOfReports : Condition.endOfStream ∈ (DecOut.err .endOfStream).conditions ∧
    (DecOut.none).conditions = [] := by decide
/-- A well-formed operation, padded, in a slot that selects it: one of each slot. -/
theorem witness_DecodeEncodeRoundTrip :
    (Instr.encReserved 9 (List.replicate 12 7)).wf Config.default = true ∧
    (Instr.encReserved 9 (List.replicate 12 7)).padded = .encReserved 9 (List.replicate 12 7) ∧
    (Instr.encReserved 9 (List.replicate 12 7)).selectedIn .encoder = true ∧
    (Instr.decDevinfo 0xC1 ⟨1, 2, 3, 4, 5, 6⟩ 7 8).wf Config.default = true ∧
    (Instr.decDevinfo 0xC1 ⟨1, 2, 3, 4, 5, 6⟩ 7 8).selectedIn (.decoder .decoded) = true ∧
    (Instr.resyncSkip 0xAB).wf Config.default = true ∧ (Instr.resyncSkip 0xAB).selectedIn (.decoder .seekingStart) = true ∧
    (Instr.readFrameBody 0xAA).selectedIn (.decoder (.frameBody 7)) = true := by decide
theorem witness_ShortPayloadReadsBackPadded :
    (Instr.encSleep [1]).wf Config.default = true ∧ (Instr.encSleep [1]).selectedIn .encoder = true := by decide
/-- EncodeOfDecodedWords: a frame whose checksum byte is not the encoder's, and a stream byte. -/
theorem witness_EncodeOfDecodedWords :
    decode Config.default .encoder (v14.set 17 0) = .instr (.encSleep [1, 0, 0, 0, 0, 0, 0, 0, 0, 0, 0, 0]) ∧
    decode Config.default (.decoder .seekingStart) [0x13] = .instr (.resyncSkip 0x13) := by decide
theorem witness_DecodeReadsFirstMatchingRow :
    ([0xAA] : List Byte).length = 1 ∧ (7 : Fin 9).val < 8 ∧ ¬ (8 : Fin 9).val < 8 := by decide
/-- R57: the rows of spec/opcode_table.json in its order, and one `DEC.DEVINFO` row for each member of a parameter. -/
theorem test_opcode_table_rows :
    (opcodeTable Config.default).map Row.mnemonic =
      ["ENC.SETMODE", "ENC.QUERYDATA", "ENC.DEVICEID", "ENC.SLEEP", "ENC.FIRMWARE", "ENC.WORKINGPERIOD", "ENC.RESERVED",
        "DEC.MEAS", "DEC.DEVINFO", "DEC.UNKNOWN", "RESYNC.START", "RESYNC.SKIP", "READ_FRAME.BODY", "READ_FRAME.LAST",
        "RESYNC.END", "READ_FRAME.SHORT"] ∧
    (decRows { devinfoTypes := [0xC1, 0xC5] }).map (fun r => (r.mnemonic, r.pattern.getD 1 0)) =
      [("DEC.MEAS", 0xC0), ("DEC.DEVINFO", 0xC1), ("DEC.DEVINFO", 0xC5), ("DEC.UNKNOWN", 0x00)] := by decide
/-- A frame with a terminator `0xAA`, one without, and an outbound frame. -/
theorem witness_TableWordsReadOffsetZeroLeftmost :
    (v23Body ++ [0xAA])[0]? = some 0xAA ∧ (v23Body ++ [0xAA]).length = 10 ∧
    (v23Body ++ [0xAB])[9]? ≠ some 0xAA ∧ (v23Body ++ [0xAB]).length = 10 ∧
    v14[0]? = some 0xAA ∧ v14.length = 19 ∧ v14[18]? ≠ some 0xAA := by decide

end Sys2Proof.Tests
end

section
/-! SUPPORT. The fields of the state after reset (R25, R8), and the report ports of a decoder that shows no output. -/

namespace Sys2Proof.Machine

@[simp] theorem State.reset_seq : State.reset.seq = .seekingStart := rfl
@[simp] theorem State.reset_decOut : State.reset.decOut = .none := rfl
@[simp] theorem State.reset_cfg : State.reset.cfg = Config.default := rfl

@[simp] theorem storedPair_seekingStart : storedPair .seekingStart = some (.seekingStart, 0) := rfl

section silent
variable {s : State} (h : s.decOut = .none)
include h

theorem decPorts_frame_done_of_silent : (decPorts s).frame_done = false := by simp [decPorts, h]
theorem decPorts_err_eos_of_silent : (decPorts s).err_eos = false := by simp [decPorts, h]
theorem decPorts_err_short_of_silent : (decPorts s).err_short = false := by simp [decPorts, h]
theorem decPorts_result_of_silent : (decPorts s).result = none := by simp [decPorts, h]

end silent

/-- Settles O38: the reset state has no decoder output, and a decoder without an output drives no report port. -/
theorem resetLeavesDecoderSeeking : Obligations.ResetLeavesDecoderSeeking := by
  have silent : State.reset.decOut = .none := State.reset_decOut
  refine ⟨?stored, silent, decPorts_frame_done_of_silent silent, decPorts_err_eos_of_silent silent,
    decPorts_err_short_of_silent silent, decPorts_result_of_silent silent, ?parameter⟩
  case stored => rw [State.reset_seq, storedPair_seekingStart]
  case parameter => rw [State.reset_cfg, Config.default]

end Sys2Proof.Machine
end

section
/-! SUPPORT. The state invariant: which updates keep it (R18). -/

namespace Sys2Proof.Machine

/-- A frame that ENCODE hands out is an `OUT19` frame (R45, R67). -/
theorem isOut19_of_encodeFrame {cmd : Byte} {P F : List Byte} (h : encodeFrame cmd P = .txFrame F) : IsOut19 F := by
  obtain ⟨hfits, heq⟩ | ⟨-, heq⟩ := encodeFrame_cases cmd P
  · cases heq.symm.trans h
    exact ⟨cmd, padPayload P, length_padPayload hfits, rfl⟩
  · cases heq.symm.trans h

/-- A payload that ENCODE refuses is longer than 12 (R68). -/
theorem refused_long_of_encodeFrame {cmd : Byte} {P : List Byte} {n : Nat}
    (h : encodeFrame cmd P = .payloadTooLarge n) : MAX_PAYLOAD < n := by
  obtain ⟨-, heq⟩ | ⟨hlong, heq⟩ := encodeFrame_cases cmd P
  · cases heq.symm.trans h
  · cases heq.symm.trans h
    exact hlong

section
variable {s t : State}

theorem State.Inv.withInputs (h : s.Inv) (l : List Input) : (s.withInputs l).Inv :=
  { h with }

/-- An answered request keeps the invariant: the decoder's clauses do not look at the answer. -/
theorem State.Inv.answer_encodeFrame (h : s.Inv) (cmd : Byte) (P : List Byte) :
    (s.answer (encodeFrame cmd P)).Inv where
  stored := h.stored
  start_held := h.start_held
  tx_formed _ hF := isOut19_of_encodeFrame hF
  refused_long _ hn := refused_long_of_encodeFrame hn
  result_of_buf := h.result_of_buf
  cfg_wf := h.cfg_wf

/-- A decoder step that delivers no result keeps the invariant if it ends in a stored sequencer state and, in a frame
body, with the start byte in `buf[0]`. -/
theorem State.Inv.of_no_result (h : s.Inv) (henc : t.encOut = s.encOut) (hcfg : t.cfg = s.cfg)
    (hout : ∀ r, t.decOut ≠ .frame r) (hstored : t.seq ≠ .decoded)
    (hstart : ∀ c, t.seq = .frameBody c → t.buf[0] = START) : t.Inv where
  stored := hstored
  start_held := hstart
  tx_formed := henc ▸ h.tx_formed
  refused_long := henc ▸ h.refused_long
  result_of_buf r hr := absurd hr (hout r)
  cfg_wf := hcfg ▸ h.cfg_wf

/-- A decoder step that delivers the decode of the frame in `buf` keeps the invariant if that frame begins with the
start byte. -/
theorem State.Inv.of_result (h : s.Inv) (henc : t.encOut = s.encOut) (hcfg : t.cfg = s.cfg)
    (hseq : t.seq = .seekingStart) (hstart : t.buf[0] = START)
    (hout : t.decOut = .frame (decodeFrame t.cfg t.frame)) : t.Inv where
  stored := by simp [hseq]
  start_held _ _ := hstart
  tx_formed := henc ▸ h.tx_formed
  refused_long := henc ▸ h.refused_long
  result_of_buf r hr := ⟨hseq, hstart, by simpa [hout, eq_comm] using hr⟩
  cfg_wf := hcfg ▸ h.cfg_wf

end

/-- Settles O30, by the kinds of step: a request is answered by ENCODE, the ninth body byte delivers a result, every
other step delivers none. -/
theorem stepKeepsInvariant : Obligations.StepKeepsInvariant := by
  intro s t h ht
  cases step_eq_next_iff.mp ht with
  | deliver hq => exact absurd hq h.stored
  | request cmd P rest hd hi => exact (h.withInputs rest).answer_encodeFrame cmd P
  | silent hd hi => exact h.of_no_result rfl rfl (by simp) hd h.start_held
  | idle rest hd hi => exact h.of_no_result rfl rfl (by simp) hd h.start_held
  | reset rest hd hi => exact h.of_no_result rfl rfl (by simp) (by simp) (by simp)
  | skip b rest hq hb hi => exact h.of_no_result rfl rfl (by simp) h.stored h.start_held
  | start rest hq hi => exact h.of_no_result rfl rfl (by simp) (by simp) (by simp)
  | streamEnd rest hq hi => exact h.of_no_result rfl rfl (by simp) (by simp) (by simp)
  | short rest c hq hi => exact h.of_no_result rfl rfl (by simp) (by simp) (by simp)
  | body b rest c hq hc hi =>
    have hbuf : s.buf[0] = START := h.start_held c hq
    exact h.of_no_result rfl rfl (by simp) (by simp) (by simp [hbuf])
  | last b rest c hq hc hi =>
    have hbuf : s.buf[0] = START := h.start_held c hq
    exact h.of_result rfl rfl rfl (by simp [hbuf]) rfl

end Sys2Proof.Machine
end

section
/-! SUPPORT. Agreement up to unwritten buffer bytes: which updates keep it (R16, R25). -/

namespace Sys2Proof.Machine

section
variable {s t : State}

/-- Two states that end in seeking agree as soon as they agree outside `buf`: no byte of a frame has been written. -/
theorem State.AgreeOnWritten.of_seeking (hs : s.seq = .seekingStart) (ht : t.seq = .seekingStart)
    (hdec : s.decOut = t.decOut) (henc : s.encOut = t.encOut) (hin : s.inputs = t.inputs) (hcfg : s.cfg = t.cfg)
    (hres : s.resets = t.resets) : s.AgreeOnWritten t where
  seq := hs.trans ht.symm
  stored := by simp [hs]
  decOut := hdec
  encOut := henc
  inputs := hin
  cfg := hcfg
  resets := hres
  written _ hc := by simp [hs] at hc

theorem State.AgreeOnWritten.withInputs (h : s.AgreeOnWritten t) (l : List Input) :
    (s.withInputs l).AgreeOnWritten (t.withInputs l) :=
  { h with inputs := rfl }

theorem State.AgreeOnWritten.report (h : s.AgreeOnWritten t) (o : DecOut) :
    (s.report o).AgreeOnWritten (t.report o) :=
  { h with decOut := rfl }

theorem State.AgreeOnWritten.answer (h : s.AgreeOnWritten t) (o : EncOut) :
    (s.answer o).AgreeOnWritten (t.answer o) :=
  { h with encOut := rfl }

theorem State.AgreeOnWritten.raise (h : s.AgreeOnWritten t) (e : DecError) :
    (s.raise e).AgreeOnWritten (t.raise e) :=
  .of_seeking rfl rfl rfl h.encOut h.inputs h.cfg h.resets

theorem State.AgreeOnWritten.resetInput (h : s.AgreeOnWritten t) :
    (resetInput s).AgreeOnWritten (resetInput t) :=
  .of_seeking rfl rfl rfl h.encOut h.inputs h.cfg (congrArg (· + 1) h.resets)

/-- The same byte written at the same offset, with the bytes before it in agreement: the frame body that ends there
agrees. -/
theorem State.AgreeOnWritten.writeBuf_moveTo (h : s.AgreeOnWritten t) (b : Byte) (i : Fin 10) (c : Fin 9)
    (hic : i.val = c.val) (hbelow : ∀ j : Fin 10, j.val < i.val → s.buf[j] = t.buf[j]) :
    ((s.writeBuf i b).moveTo (.frameBody c)).AgreeOnWritten ((t.writeBuf i b).moveTo (.frameBody c)) where
  seq := rfl
  stored := by simp
  decOut := h.decOut
  encOut := h.encOut
  inputs := h.inputs
  cfg := h.cfg
  resets := h.resets
  written := by
    rintro _ ⟨⟩ j hj
    show (s.writeBuf i b).buf[j.val] = (t.writeBuf i b).buf[j.val]
    rw [State.writeBuf_get, State.writeBuf_get]
    split
    · rfl
    · exact hbelow j (by omega)

/-- The ninth body byte completes the frame: nothing in `buf` is unwritten then. -/
theorem State.AgreeOnWritten.writeBuf_last (h : s.AgreeOnWritten t) {c : Fin 9} (hq : s.seq = .frameBody c)
    (hc : c.val = 8) (b : Byte) : (s.writeBuf 9 b).buf = (t.writeBuf 9 b).buf := by
  apply Vector.ext
  intro j hj
  rw [State.writeBuf_get, State.writeBuf_get]
  split
  · rfl
  · rename_i hne
    exact h.written c hq ⟨j, hj⟩ (by simp at hne ⊢; omega)

end

/-- Settles O35, by the kinds of step: the other state takes a step of the same kind, and each update of the two
states keeps their agreement. -/
theorem unwrittenBufferUnobservable : Obligations.UnwrittenBufferUnobservable := by
  intro s t s' h hs
  have hseq := h.seq
  have hin := h.inputs
  cases step_eq_next_iff.mp hs with
  | deliver hq => exact absurd hq h.stored
  | silent hd hi => exact ⟨_, step_silent (hseq ▸ hd) (hin ▸ hi), h.report .none⟩
  | idle rest hd hi => exact ⟨_, step_idle (hseq ▸ hd) (hin ▸ hi), (h.withInputs rest).report .none⟩
  | reset rest hd hi => exact ⟨_, step_reset (hseq ▸ hd) (hin ▸ hi), (h.withInputs rest).resetInput⟩
  | request cmd P rest hd hi => exact ⟨_, step_request (hseq ▸ hd) (hin ▸ hi), (h.withInputs rest).answer _⟩
  | skip b rest hq hb hi => exact ⟨_, step_skip (hseq ▸ hq) hb (hin ▸ hi), (h.withInputs rest).report .none⟩
  | streamEnd rest hq hi => exact ⟨_, step_end (hseq ▸ hq) (hin ▸ hi), (h.withInputs rest).raise .endOfStream⟩
  | short rest c hq hi => exact ⟨_, step_short (hseq ▸ hq) (hin ▸ hi), (h.withInputs rest).raise (.shortRead c)⟩
  | start rest hq hi =>
    have hagree := (h.withInputs rest).writeBuf_moveTo START 0 0 rfl (by simp)
    exact ⟨_, step_start (hseq ▸ hq) (hin ▸ hi), hagree.report .none⟩
  | body b rest c hq hc hi =>
    have hbelow (j : Fin 10) (hj : j.val < c.succ.val) : s.buf[j] = t.buf[j] :=
      h.written c hq j (Nat.lt_succ_iff.mp hj)
    have hagree := (h.withInputs rest).writeBuf_moveTo b c.succ ⟨c.val + 1, Nat.succ_lt_succ hc⟩ rfl hbelow
    exact ⟨_, step_body (hseq ▸ hq) hc (hin ▸ hi), hagree.report .none⟩
  | last b rest c hq hc hi =>
    have hframe : (s.writeBuf 9 b).frame = (t.writeBuf 9 b).frame := congrArg frameOf (h.writeBuf_last hq hc b)
    refine ⟨_, step_last (hseq ▸ hq) hc (hin ▸ hi), ?_⟩
    rw [hframe, h.cfg]
    exact .of_seeking rfl rfl rfl h.encOut rfl h.cfg h.resets

end Sys2Proof.Machine
end

section
/-! SUPPORT. The encoder's answer and the inputs behind the front one play no part in a decoder step (R12, R33); every
step answers a next state (R92). -/

namespace Sys2Proof.Machine

/-- The state with a given stream of inputs and a given answer: what differs between two interleavings. -/
def State.facing (s : State) (l : List Input) (e : EncOut) : State :=
  (s.withInputs l).answer e

theorem State.facing_self {s : State} {l : List Input} (h : s.inputs = l) : s.facing l s.encOut = s := by
  subst h; rfl

/-- A stored state takes a stream event to one stored state, whatever follows the event and whatever the encoder has
answered. -/
theorem step_rx_facing {s : State} (h : s.seq ≠ .decoded) (ev : RxEvent) :
    ∃ t : State, t.seq ≠ .decoded ∧ ∀ l e, step (s.facing (.rx ev :: l) e) = .next (t.facing l e) := by
  cases hq : s.seq with
  | decoded => exact absurd hq h
  | seekingStart =>
    cases ev with
    | rxEnd => exact ⟨s.raise .endOfStream, by simp, fun l e => step_end hq rfl⟩
    | rxByte b =>
      by_cases hb : b = START
      · subst hb
        exact ⟨((s.writeBuf 0 START).moveTo (.frameBody 0)).report .none, by simp, fun l e => step_start hq rfl⟩
      · exact ⟨s.report .none, h, fun l e => step_skip hq hb rfl⟩
  | frameBody c =>
    cases ev with
    | rxEnd => exact ⟨s.raise (.shortRead c), by simp, fun l e => step_short hq rfl⟩
    | rxByte b =>
      by_cases hc : c.val < 8
      · exact ⟨((s.writeBuf c.succ b).moveTo (.frameBody ⟨c.val + 1, Nat.succ_lt_succ hc⟩)).report .none, by simp,
          fun l e => step_body (s := s.facing (.rx (.rxByte b) :: l) e) hq hc rfl⟩
      · exact ⟨(s.writeBuf 9 b).deliver (decodeFrame s.cfg (s.writeBuf 9 b).frame), by simp,
          fun l e => step_last hq (by omega) rfl⟩

/-- The inputs of the encoder; all others are the decoder's. -/
def Input.IsRequest (x : Input) : Prop :=
  ∃ cmd P, x = .encReq cmd P

/-- What `step_rx_facing` says of stream events holds of every input of the decoder. -/
theorem step_decoderInput_facing {s : State} (h : s.seq ≠ .decoded) {x : Input} (hx : ¬ x.IsRequest) :
    ∃ t : State, t.seq ≠ .decoded ∧ ∀ l e, step (s.facing (x :: l) e) = .next (t.facing l e) := by
  cases x with
  | encReq cmd P => exact absurd ⟨cmd, P, rfl⟩ hx
  | rx ev => exact step_rx_facing h ev
  | idle => exact ⟨idleEdge s, h, fun l e => step_idle h rfl⟩
  | reset => exact ⟨resetInput s, by simp, fun l e => step_reset h rfl⟩

theorem step_request_facing {s : State} (h : s.seq ≠ .decoded) (cmd : Byte) (P : List Byte) (l : List Input)
    (e : EncOut) : step (s.facing (.encReq cmd P :: l) e) = .next (s.facing l (encodeFrame cmd P)) :=
  step_request h rfl

/-- Every step answers a next state (R92). -/
theorem exists_step (s : State) : ∃ t, step s = .next t := by
  by_cases h : s.seq = .decoded
  · exact ⟨_, step_deliver h⟩
  cases hi : s.inputs with
  | nil => exact ⟨_, step_silent h hi⟩
  | cons x rest =>
    rw [← s.facing_self hi]
    by_cases hx : x.IsRequest
    · obtain ⟨cmd, P, rfl⟩ := hx
      exact ⟨_, step_request_facing h cmd P rest s.encOut⟩
    · obtain ⟨t, -, ht⟩ := step_decoderInput_facing h hx
      exact ⟨_, ht rest s.encOut⟩

theorem decoderInputs_request (cmd : Byte) (P : List Byte) (xs : List Input) :
    decoderInputs (.encReq cmd P :: xs) = decoderInputs xs := rfl

theorem decoderInputs_cons {x : Input} (hx : ¬ x.IsRequest) (xs : List Input) :
    decoderInputs (x :: xs) = x :: decoderInputs xs := by
  cases x with
  | encReq cmd P => exact absurd ⟨cmd, P, rfl⟩ hx
  | rx _ | idle | reset => rfl

theorem lastAnswer_request (e : EncOut) (cmd : Byte) (P : List Byte) (xs : List Input) :
    lastAnswer e (.encReq cmd P :: xs) = lastAnswer (encodeFrame cmd P) xs := rfl

theorem lastAnswer_cons (e : EncOut) {x : Input} (hx : ¬ x.IsRequest) (xs : List Input) :
    lastAnswer e (x :: xs) = lastAnswer e xs := by
  cases x with
  | encReq cmd P => exact absurd ⟨cmd, P, rfl⟩ hx
  | rx _ | idle | reset => rfl

/-- A whole sequence of inputs and the decoder's part of it alone run to the same state up to the answer, whatever the
answer was before. -/
theorem steps_interleaved (xs : List Input) {s : State} (h : s.seq ≠ .decoded) :
    ∃ u : State, ∀ e,
      steps (decoderInputs xs).length (s.facing (decoderInputs xs) e) = .next (u.facing [] e) ∧
      steps xs.length (s.facing xs e) = .next (u.facing [] (lastAnswer e xs)) := by
  induction xs generalizing s with
  | nil => exact ⟨s, fun e => ⟨rfl, rfl⟩⟩
  | cons x xs ih =>
    by_cases hx : x.IsRequest
    · obtain ⟨cmd, P, rfl⟩ := hx
      obtain ⟨u, hu⟩ := ih h
      refine ⟨u, fun e => ⟨decoderInputs_request cmd P xs ▸ (hu e).1, ?_⟩⟩
      rw [List.length_cons, steps_succ (step_request_facing h cmd P xs e), lastAnswer_request]
      exact (hu (encodeFrame cmd P)).2
    · obtain ⟨t, hq, ht⟩ := step_decoderInput_facing h hx
      obtain ⟨u, hu⟩ := ih hq
      refine ⟨u, fun e => ?_⟩
      rw [decoderInputs_cons hx, lastAnswer_cons e hx, List.length_cons, List.length_cons, steps_succ (ht _ e),
        steps_succ (ht _ e)]
      exact hu e

/-- Settles O8: both runs of `steps_interleaved`, from the answer the state begins with. -/
theorem agentsDoNotInterfere : Obligations.AgentsDoNotInterfere := by
  intro s xs h hi
  obtain ⟨u, hu⟩ := steps_interleaved xs h
  obtain ⟨hdec, hall⟩ := hu s.encOut
  rw [s.facing_self hi] at hall
  exact ⟨u.facing [] s.encOut, hdec, rfl, hall⟩

/-- Settles O41: every step answers a next state, and that state alone is put back into the system. -/
theorem instancesAreIndependent : Obligations.InstancesAreIndependent := by
  intro k sys
  cases hk : sys[k]? with
  | none => exact ⟨sys, by simp [stepInstance, hk], rfl, fun _ _ => rfl, by simp⟩
  | some s =>
    obtain ⟨t, ht⟩ := exists_step s
    obtain ⟨hlt, -⟩ := List.getElem?_eq_some_iff.mp hk
    refine ⟨sys.set k t, by simp [stepInstance, hk, ht], by simp, fun j hj => ?others, ?own⟩
    case others => exact List.getElem?_set_ne (Ne.symm hj)
    case own =>
      rintro _ ⟨⟩
      exact ⟨t, ht, List.getElem?_set_self hlt⟩

end Sys2Proof.Machine
end

section
/-! SUPPORT. Frame bodies: the completing step as a write followed by a decode (R14), and what a run of body bytes
leaves in `buf` (R16, R18 (b)). -/

namespace Sys2Proof.Machine

/-- Settles O18: both sides deliver the decode of the completed frame. -/
theorem completingStepRunsDecRow : Obligations.CompletingStepRunsDecRow := by
  intro s b hq
  rw [exec_readFrameLast hq rfl, exec_ofFrame rfl]
  rfl

/-- The start byte moves a seeking decoder into a frame body and is stored at offset 0, with the rest of `buf` kept. -/
theorem exists_step_start {s : State} {l : List Input} (hq : s.seq = .seekingStart)
    (hi : s.inputs = .rx (.rxByte START) :: l) :
    ∃ t, step s = .next t ∧ t.seq = .frameBody 0 ∧ t.decOut = .none ∧ t.inputs = l ∧
      ∀ k (hk : k < 10), t.buf[k] = if 0 = k then START else s.buf[k] :=
  ⟨_, step_start hq hi, rfl, rfl, rfl, fun k hk => (s.withInputs l).writeBuf_get 0 START k hk⟩

/-- A body byte below the last is stored at the next offset, with the rest of `buf` kept. -/
theorem exists_step_body {s : State} {b : Byte} {l : List Input} {c : Fin 9} (hq : s.seq = .frameBody c)
    (hc : c.val < 8) (hi : s.inputs = .rx (.rxByte b) :: l) :
    ∃ t, step s = .next t ∧ t.seq = .frameBody ⟨c.val + 1, Nat.succ_lt_succ hc⟩ ∧ t.decOut = .none ∧ t.inputs = l ∧
      ∀ k (hk : k < 10), t.buf[k] = if c.val + 1 = k then b else s.buf[k] :=
  ⟨_, step_body hq hc hi, rfl, rfl, rfl, fun k hk => (s.withInputs l).writeBuf_get c.succ b k hk⟩

/-- A byte stored at offset `c + 1` and then a list of bytes behind it is the longer list stored from offset `c + 1`. -/
theorem storedBytes_cons (c k : Nat) (b old : Byte) (bs : List Byte) :
    (if c + 1 < k ∧ k ≤ c + 1 + bs.length then bs.getD (k - (c + 1) - 1) 0 else if c + 1 = k then b else old) =
      if c < k ∧ k ≤ c + (b :: bs).length then (b :: bs).getD (k - c - 1) 0 else old := by
  rw [List.length_cons]
  obtain hbefore | rfl | hbehind := Nat.lt_trichotomy k (c + 1)
  · rw [if_neg (by omega), if_neg (by omega), if_neg (by omega)]
  · rw [if_neg (by omega), if_pos rfl, if_pos (by omega), Nat.add_sub_cancel_left, Nat.sub_self, List.getD_cons_zero]
  · have hidx : k - c - 1 = k - (c + 1) - 1 + 1 := by omega
    rw [if_neg (Nat.ne_of_lt hbehind), hidx, List.getD_cons_succ]
    exact if_congr (by omega) rfl rfl

/-- A run of `k` body bytes that does not complete the frame stores them behind those already there and changes
nothing else of `buf`; it reports nothing. -/
theorem steps_body (bs : List Byte) {s : State} {c : Fin 9} {rest : List Input} (hq : s.seq = .frameBody c)
    (hlen : c.val + bs.length ≤ 8) (hout : s.decOut = .none)
    (hi : s.inputs = bs.map (fun b => .rx (.rxByte b)) ++ rest) :
    ∃ t, steps bs.length s = .next t ∧ t.seq = .frameBody ⟨c.val + bs.length, by omega⟩ ∧ t.decOut = .none ∧
      t.inputs = rest ∧
      ∀ k (hk : k < 10), t.buf[k] =
        if c.val < k ∧ k ≤ c.val + bs.length then bs.getD (k - c.val - 1) 0 else s.buf[k] := by
  induction bs generalizing s c with
  | nil =>
    refine ⟨s, rfl, hq, hout, hi, fun k hk => ?_⟩
    rw [List.length_nil, if_neg (by omega)]
  | cons b bs ih =>
    rw [List.length_cons] at hlen
    obtain ⟨s₁, hstep, hq₁, hout₁, hi₁, hbuf₁⟩ := exists_step_body hq (by omega) hi
    obtain ⟨t, hrun, hseq, hdec, hin, hbuf⟩ := ih hq₁ (by simp only; omega) hout₁ hi₁
    refine ⟨t, (steps_succ hstep _).trans hrun, ?_, hdec, hin, fun k hk => ?_⟩
    · simp only [hseq, List.length_cons, Nat.add_assoc, Nat.add_comm 1]
    · rw [hbuf k hk, hbuf₁ k hk]
      exact storedBytes_cons c.val k b s.buf[k] bs

/-- Settles O32: one step takes the start byte, `steps_body` the rest. -/
theorem bodyBytesHeldInOrder : Obligations.BodyBytesHeldInOrder := by
  intro s bs rest hq hlen hi
  obtain ⟨s₁, hstep, hq₁, hout₁, hi₁, hbuf₁⟩ := exists_step_start hq hi
  obtain ⟨t, hrun, hseq, hdec, hin, hbuf⟩ := steps_body bs hq₁ (by simpa using hlen) hout₁ hi₁
  refine ⟨t, (steps_succ hstep _).trans hrun, by simpa using hseq, hdec, hin, ?start, fun k hk => ?body⟩
  case start => simp [hbuf, hbuf₁]
  case body =>
    have hget := hbuf k.val k.isLt
    rw [hbuf₁ k.val k.isLt, if_neg hk.ne] at hget
    simpa [hk] using hget

end Sys2Proof.Machine
end

section
/-! SUPPORT. The ports: what a clock edge offers (R22, R115, R134), and the report ports by the decoder's output. -/

namespace Sys2Proof.Machine

/-- Settles O42: the input an edge stands for, by the three tests of `DecPortIn.input`. -/
theorem clockEdgePriority : Obligations.ClockEdgePriority := by
  intro p s hq
  refine ⟨fun hrst => ?reset, fun hrst heos => ?eos, fun hrst heos hvalid => ?byte, fun hrst heos hvalid => ?none⟩
  case reset =>
    have hin : p.input = .reset := by simp [DecPortIn.input, hrst]
    exact ⟨_, step_reset hq (congrArg (· :: s.inputs) hin), rfl, rfl, rfl, rfl, rfl⟩
  case eos =>
    have hin : p.input = .rx .rxEnd := by simp [DecPortIn.input, hrst, heos]
    rw [clockEdge, hin]; rfl
  case byte =>
    have hin : p.input = .rx (.rxByte p.rx_data) := by simp [DecPortIn.input, hrst, heos, hvalid]
    rw [clockEdge, hin]; rfl
  case none =>
    have hin : p.input = .idle := by simp [DecPortIn.input, hrst, heos, hvalid]
    exact step_idle hq (congrArg (· :: s.inputs) hin)

/-- Settles O43, by the decoder's latest output. -/
theorem oneReportPerCycle : Obligations.OneReportPerCycle := by
  intro s
  cases hout : s.decOut with
  | none => simp [decPorts, hout]
  | frame r => simp [decPorts, hout]
  | err e =>
    cases e with
    | endOfStream => simp [decPorts, hout]
    | shortRead k => simp [decPorts, hout]

@[simp] theorem storedPair_frameBody (c : Fin 9) : storedPair (.frameBody c) = some (.frameBody, c) := rfl

/-- Settles O47: the status ports are functions of the stored pair. -/
theorem statusViewShowsSequencer : Obligations.StatusViewShowsSequencer := by
  intro s
  refine ⟨fun hq => ?seeking, fun c hq => ?body⟩
  case seeking => simp [decPorts, hq, DState.bit]
  case body => simp [decPorts, hq, DState.bit]

end Sys2Proof.Machine
end

section
/-! SUPPORT. The parameter, which no step writes (R43), and the steps that are offered no event (R35). -/

namespace Sys2Proof.Machine

/-- No kind of step writes the parameter (R43). -/
theorem step_keeps_cfg {s t : State} (h : step s = .next t) : t.cfg = s.cfg := by
  cases step_eq_next_iff.mp h <;> rfl

/-- Settles O31, by induction on the number of steps. -/
theorem parameterNeverChanges : Obligations.ParameterNeverChanges := by
  intro n
  induction n with
  | zero =>
    rintro s t ⟨⟩
    rfl
  | succ n ih =>
    intro s t h
    obtain ⟨u, hu⟩ := exists_step s
    rw [steps_succ hu] at h
    exact (ih u t h).trans (step_keeps_cfg hu)

/-- Settles O40: with no input, and with an idle edge in front, the step is an idle edge. -/
theorem silenceHoldsState : Obligations.SilenceHoldsState :=
  fun _ _ hd => ⟨fun hi => step_silent hd hi, fun hi => step_idle hd hi⟩

end Sys2Proof.Machine
end

section
/-! SUPPORT. The decoders of words and the fetch select the same operation (R45, R46, R57, R89). -/

namespace Sys2Proof.Machine

/-- One byte in the decoder's slot is decoded as the sequencer reads the byte event. -/
theorem decode_byte_instr? (cfg : Config) (q : Sequencer) (b : Byte) :
    (decode cfg (.decoder q) [b]).instr? = rxInstr q (.rxByte b) := by
  cases q with
  | seekingStart | frameBody _ | decoded => rfl

/-- No bits in the decoder's slot are decoded as the sequencer reads the end of the stream. -/
theorem decode_end_instr? (cfg : Config) (q : Sequencer) :
    (decode cfg (.decoder q) []).instr? = rxInstr q .rxEnd := by
  cases q with
  | seekingStart | frameBody _ | decoded => rfl

/-- An accepted `OUT19` frame is read back as the request of its command byte and its 12 payload bytes (R45). -/
theorem eq_ofRequest_of_decodeOut19 {F : List Byte} {i : Instr} (h : decodeOut19 F = .instr i) :
    i = Instr.ofRequest (F.getD 2 0) ((F.drop 3).take 12) := by
  unfold decodeOut19 at h
  split at h
  · cases h
  · split at h
    · cases h
    · cases h; rfl

/-- The ten buffer bytes in order are those of the frame they hold (R46). -/
theorem toList_eq_bytes_frameOf (buf : Vector Byte 10) : buf.toList = (frameOf buf).bytes := by
  obtain ⟨⟨l⟩, hl⟩ := buf
  match l, hl with
  | [_, _, _, _, _, _, _, _, _, _], _ => rfl

/-- The words of a frame are read back as the row the frame selects, if it begins with the start byte (R54). -/
theorem decodeIn10_bytes (cfg : Config) (f : InFrame) :
    decodeIn10 cfg f.bytes = if f.start = START then .instr (Instr.ofFrame cfg f) else .rejected (.constant 0) := rfl

theorem eq_ofFrame_of_decodeIn10 {cfg : Config} {f : InFrame} {i : Instr} (h : decodeIn10 cfg f.bytes = .instr i) :
    i = Instr.ofFrame cfg f := by
  rw [decodeIn10_bytes] at h
  split at h
  · cases h; rfl
  · cases h

/-- Settles O28, by what is presented: each decoder of words answers the operation the fetch selects. -/
theorem stepRunsDecodedOperation : Obligations.StepRunsDecodedOperation := by
  intro s i rest
  refine ⟨fun b _ hi hdec => ?byte, fun _ hi hdec => ?streamEnd, fun F hd hi hdec => ?request, fun hq hdec => ?frame⟩
  case byte =>
    have hsel : rxInstr s.seq (.rxByte b) = some i := by rw [← decode_byte_instr? s.cfg, hdec]; rfl
    exact step_rx hi hsel
  case streamEnd =>
    have hsel : rxInstr s.seq .rxEnd = some i := by rw [← decode_end_instr? s.cfg, hdec]; rfl
    exact step_rx hi hsel
  case request =>
    rw [step_request hd hi, eq_ofRequest_of_decodeOut19 hdec, exec_ofRequest]
    rfl
  case frame =>
    rw [toList_eq_bytes_frameOf] at hdec
    rw [step_decoded hq, eq_ofFrame_of_decodeIn10 hdec]
    rfl

end Sys2Proof.Machine
end

section
/-! SUPPORT. The source's stream operations by the shape of the stream (R34, R90). -/

namespace Sys2Proof.Machine

/-- `readBody` by the bytes in front of the stream: enough of them, too few before the end, or too few so far (R34,
R35). -/
theorem readBody_cases (n : Nat) (got : List Byte) (evs : List RxEvent) :
    (∃ (bs : List Byte) (rest : List RxEvent), bs.length = n ∧ evs = bs.map .rxByte ++ rest ∧
      readBody n got evs = .frame (got ++ bs) rest) ∨
    (∃ (bs : List Byte) (rest : List RxEvent), bs.length < n ∧ evs = bs.map .rxByte ++ .rxEnd :: rest ∧
      readBody n got evs = .shortRead (got.length + bs.length - 1) rest) ∨
    (∃ bs : List Byte, bs.length < n ∧ evs = bs.map .rxByte ∧ readBody n got evs = .waiting) := by
  induction n generalizing got evs with
  | zero => exact .inl ⟨[], evs, rfl, rfl, by rw [List.append_nil, readBody]⟩
  | succ n ih =>
    match evs with
    | [] => exact .inr (.inr ⟨[], Nat.succ_pos n, rfl, rfl⟩)
    | .rxEnd :: rest => exact .inr (.inl ⟨[], rest, Nat.succ_pos n, rfl, rfl⟩)
    | .rxByte b :: evs =>
      obtain ⟨bs, rest, hlen, rfl, hread⟩ | ⟨bs, rest, hlen, rfl, hread⟩ | ⟨bs, hlen, rfl, hread⟩ :=
        ih (got ++ [b]) evs
      · exact .inl ⟨b :: bs, rest, congrArg (· + 1) hlen, rfl, by rw [readBody, hread, List.append_assoc]; rfl⟩
      · refine .inr (.inl ⟨b :: bs, rest, Nat.succ_lt_succ hlen, rfl, ?_⟩)
        rw [readBody, hread, List.length_append, List.length_cons, List.length_nil, Nat.add_assoc, Nat.add_comm 1]
        rfl
      · exact .inr (.inr ⟨b :: bs, Nat.succ_lt_succ hlen, rfl, by rw [readBody, hread]⟩)

theorem readFrame_start (evs : List RxEvent) : readFrame (.rxByte START :: evs) = readBody 9 [START] evs := rfl

/-- A byte that is no start byte is passed over. -/
theorem readFrame_skip {b : Byte} (hb : b ≠ START) (evs : List RxEvent) :
    readFrame (.rxByte b :: evs) = readFrame evs := by
  rw [readFrame, resync, if_neg hb, readFrame]

/-- The answer of `read_frame`, shape by shape of the stream: the bytes `g` before the first start byte, then the body
bytes `bs`. -/
inductive ReadFrameOf : List RxEvent → ReadFrame → Prop where
  | quiet (g : List Byte) (hg : START ∉ g) : ReadFrameOf (g.map .rxByte) .waiting
  | endOfStream (g : List Byte) (rest : List RxEvent) (hg : START ∉ g) :
      ReadFrameOf (g.map .rxByte ++ .rxEnd :: rest) (.endOfStream rest)
  | midFrame (g bs : List Byte) (hg : START ∉ g) (hlen : bs.length ≤ 8) :
      ReadFrameOf ((g ++ START :: bs).map .rxByte) .waiting
  | shortRead (g bs : List Byte) (rest : List RxEvent) (hg : START ∉ g) (hlen : bs.length ≤ 8) :
      ReadFrameOf ((g ++ START :: bs).map .rxByte ++ .rxEnd :: rest) (.shortRead bs.length rest)
  | frame (g bs : List Byte) (b : Byte) (rest : List RxEvent) (hg : START ∉ g) (hlen : bs.length = 8) :
      ReadFrameOf ((g ++ START :: bs).map .rxByte ++ .rxByte b :: rest) (.frame (START :: bs ++ [b]) rest)

/-- A byte that is no start byte in front of the stream keeps its shape. -/
theorem ReadFrameOf.cons_skip {b : Byte} (hb : b ≠ START) {evs : List RxEvent} {answer : ReadFrame}
    (h : ReadFrameOf evs answer) : ReadFrameOf (.rxByte b :: evs) answer := by
  have notMem {g : List Byte} (hg : START ∉ g) : START ∉ b :: g := List.not_mem_cons_of_ne_of_not_mem hb.symm hg
  cases h with
  | quiet g hg => exact .quiet (b :: g) (notMem hg)
  | endOfStream g rest hg => exact .endOfStream (b :: g) rest (notMem hg)
  | midFrame g bs hg hlen => exact .midFrame (b :: g) bs (notMem hg) hlen
  | shortRead g bs rest hg hlen => exact .shortRead (b :: g) bs rest (notMem hg) hlen
  | frame g bs last rest hg hlen => exact .frame (b :: g) bs last rest (notMem hg) hlen

/-- Every stream has one of the shapes of `ReadFrameOf`, with the answer given there. -/
theorem readFrameOf_readFrame (evs : List RxEvent) : ReadFrameOf evs (readFrame evs) := by
  induction evs with
  | nil => exact .quiet [] List.not_mem_nil
  | cons ev evs ih =>
    cases ev with
    | rxEnd => exact .endOfStream [] evs List.not_mem_nil
    | rxByte b =>
      by_cases hb : b = START
      · subst hb
        rw [readFrame_start]
        obtain ⟨bs, rest, hlen, rfl, hread⟩ | ⟨bs, rest, hlen, rfl, hread⟩ | ⟨bs, hlen, rfl, hread⟩ :=
          readBody_cases 9 [START] evs
        · obtain rfl | ⟨bs, b, rfl⟩ := List.eq_nil_or_concat' bs
          · cases hlen
          rw [List.length_append, List.length_singleton, Nat.add_right_cancel_iff] at hlen
          rw [hread, List.map_append, List.append_assoc]
          exact .frame [] bs b rest List.not_mem_nil hlen
        · rw [hread, List.length_singleton, Nat.add_sub_cancel_left]
          exact .shortRead [] bs rest List.not_mem_nil (Nat.le_of_lt_succ hlen)
        · rw [hread]
          exact .midFrame [] bs List.not_mem_nil (Nat.le_of_lt_succ hlen)
      · rw [readFrame_skip hb]
        exact ih.cons_skip hb

end Sys2Proof.Machine
end

section
/-! SUPPORT. Runs of the machine over a stream: skipped bytes, a frame begun, and the step that ends each shape of the
stream (R81 to R86). -/

namespace Sys2Proof.Machine

/-- A run over bytes that are no start byte consumes them and changes nothing but the output shown, which is none if
there was such a byte (R81). -/
theorem steps_skip (g : List Byte) {s : State} {rest : List Input} (hq : s.seq = .seekingStart) (hg : START ∉ g)
    (hi : s.inputs = g.map (fun b => .rx (.rxByte b)) ++ rest) :
    ∃ o, steps g.length s = .next { s with decOut := o, inputs := rest } ∧ (g ≠ [] → o = .none) := by
  induction g generalizing s with
  | nil => subst hi; exact ⟨s.decOut, rfl, absurd rfl⟩
  | cons b g ih =>
    obtain ⟨hb, hg⟩ := not_or.mp (mt List.mem_cons.mpr hg)
    have hstep := step_skip hq (Ne.symm hb) hi
    by_cases hnil : g = []
    · subst hnil
      exact ⟨.none, (steps_one s).trans hstep, fun _ => rfl⟩
    · obtain ⟨o, hrun, hout⟩ := ih (s := { s with decOut := .none, inputs := _ }) hq hg rfl
      exact ⟨o, (steps_succ hstep _).trans hrun, fun _ => hout hnil⟩

/-- A step that takes a stream event leaves the encoder's answer and the count of resets, consumes that event alone and
ends in a stored sequencer state (R12, R14, R33). -/
theorem step_rx_keeps {s t : State} {ev : RxEvent} {rest : List Input} (hd : s.seq ≠ .decoded)
    (hi : s.inputs = .rx ev :: rest) (h : step s = .next t) :
    t.seq ≠ .decoded ∧ t.inputs = rest ∧ t.encOut = s.encOut ∧ t.resets = s.resets := by
  cases step_eq_next_iff.mp h with
  | deliver hq => exact absurd hq hd
  | silent _ hi' | idle _ _ hi' | reset _ _ hi' | request _ _ _ _ hi' => cases hi.symm.trans hi'
  | skip _ _ _ _ hi' => cases hi.symm.trans hi'; exact ⟨hd, rfl, rfl, rfl⟩
  | start _ _ hi' | streamEnd _ _ hi' | short _ _ _ hi' => cases hi.symm.trans hi'; exact ⟨by simp, rfl, rfl, rfl⟩
  | body _ _ _ _ _ hi' | last _ _ _ _ _ hi' => cases hi.symm.trans hi'; exact ⟨by simp, rfl, rfl, rfl⟩

/-- A run over stream events, step by step as in `step_rx_keeps`. -/
theorem steps_rx_keeps (evs : List RxEvent) {s t : State} {more : List Input} (hd : s.seq ≠ .decoded)
    (hi : s.inputs = evs.map .rx ++ more) (h : steps evs.length s = .next t) :
    t.encOut = s.encOut ∧ t.resets = s.resets := by
  induction evs generalizing s with
  | nil => cases h; exact ⟨rfl, rfl⟩
  | cons ev evs ih =>
    obtain ⟨u, hu⟩ := exists_step s
    obtain ⟨hdu, hiu, hencu, hresu⟩ := step_rx_keeps hd hi hu
    rw [List.length_cons, steps_succ hu] at h
    obtain ⟨henc, hres⟩ := ih hdu hiu h
    exact ⟨henc.trans hencu, hres.trans hresu⟩

/-- A run over bytes before the first start byte, the start byte and at most 8 body bytes ends in the frame body with
those bytes in `buf`, shows nothing and leaves what is not the decoder's. -/
theorem steps_midFrame {s : State} {g bs : List Byte} {more : List Input} (hq : s.seq = .seekingStart)
    (hg : START ∉ g) (hlen : bs.length ≤ 8) (hi : s.inputs = ((g ++ START :: bs).map .rxByte).map .rx ++ more) :
    ∃ t, steps (g ++ START :: bs).length s = .next t ∧ t.seq = .frameBody ⟨bs.length, by omega⟩ ∧ t.decOut = .none ∧
      t.inputs = more ∧ (t.encOut = s.encOut ∧ t.resets = s.resets ∧ t.cfg = s.cfg) ∧
      ∀ k (hk : k < 10), k ≤ bs.length → t.buf[k] = (START :: bs).getD k 0 := by
  have hi' : s.inputs = g.map (fun b => .rx (.rxByte b)) ++
      ((START :: bs).map (fun b => .rx (.rxByte b)) ++ more) := by
    rw [hi, List.map_map, List.map_append, List.append_assoc]; rfl
  obtain ⟨o, hskip, -⟩ := steps_skip g hq hg hi'
  obtain ⟨t, hbody, hseq, hout, hin, hstart, hbuf⟩ :=
    bodyBytesHeldInOrder { s with decOut := o, inputs := _ } bs more hq hlen rfl
  have hrun : steps (g ++ START :: bs).length s = .next t := by
    rw [List.length_append, steps_add hskip]; exact hbody
  obtain ⟨henc, hres⟩ := steps_rx_keeps ((g ++ START :: bs).map .rxByte) (by simp [hq]) hi
    (by rw [List.length_map]; exact hrun)
  refine ⟨t, hrun, hseq, hout, hin, ⟨henc, hres, parameterNeverChanges _ s t hrun⟩, fun k hk hle => ?_⟩
  cases k with
  | zero => exact hstart
  | succ k => exact (hbuf ⟨k + 1, hk⟩ (Nat.succ_pos k)).trans (if_pos hle)

theorem bufOfList_get (F : List Byte) (k : Nat) (hk : k < 10) : (bufOfList F)[k] = F.getD k 0 := by
  simp only [bufOfList, Vector.getElem_ofFn]

/-- The start byte and 8 body bytes held in order, with the ninth body byte written behind them: the ten bytes of the
frame. -/
theorem State.writeBuf_last_eq_bufOfList {t : State} {bs : List Byte} (b : Byte) (hlen : bs.length = 8)
    (hbuf : ∀ k (hk : k < 10), k ≤ bs.length → t.buf[k] = (START :: bs).getD k 0) :
    (t.writeBuf 9 b).buf = bufOfList (START :: bs ++ [b]) := by
  have hlen' : (START :: bs).length = 9 := congrArg (· + 1) hlen
  apply Vector.ext
  intro k hk
  rw [State.writeBuf_get, bufOfList_get]
  split
  · rename_i hlast
    cases (show 9 = k from hlast)
    rw [List.getD_append_right _ _ _ _ hlen'.le, hlen', Nat.sub_self, List.getD_cons_zero]
  · rename_i hne
    have hlt : k < 9 := Nat.lt_of_le_of_ne (Nat.le_of_lt_succ hk) (Ne.symm hne)
    rw [List.getD_append _ _ _ _ (hlen' ▸ hlt), hbuf k hk (by omega)]

/-- Bytes and the event behind them are consumed from a stream one by one (R33). -/
theorem length_consumed (bs : List Byte) (ev : RxEvent) (rest : List RxEvent) :
    bs.length + 1 + rest.length = (bs.map RxEvent.rxByte ++ ev :: rest).length := by
  rw [List.length_append, List.length_map, List.length_cons, Nat.add_assoc, Nat.add_comm 1]

/-- Settles O34, by the shape of the stream: a run over the bytes in front of it, then the step that reports. -/
theorem readFrameIsRunOfSteps : Obligations.ReadFrameIsRunOfSteps := by
  intro s evs more hq hi
  have hshape := readFrameOf_readFrame evs
  refine ⟨fun F rest hread => ?frame, fun rest hread => ?endOfStream, fun k rest hread => ?shortRead,
    fun hread hne => ?waiting⟩
  case frame =>
    rw [hread] at hshape
    cases hshape with
    | frame g bs b _ hg hlen =>
      rw [List.map_append, List.append_assoc] at hi
      obtain ⟨t, hrun, hseq, -, hin, ⟨henc, hres, hcfg⟩, hbuf⟩ := steps_midFrame hq hg hlen.le hi
      have hlast := State.writeBuf_last_eq_bufOfList b hlen hbuf
      refine ⟨by simp [hlen], (g ++ START :: bs).length + 1, length_consumed _ _ _, ?_⟩
      rw [steps_add hrun, steps_one, step_last hseq hlen hin, State.frame, hlast, hcfg]
      exact congrArg _ (State.ext hq.symm hlast rfl henc rfl hcfg hres)
  case endOfStream =>
    rw [hread] at hshape
    cases hshape with
    | endOfStream g _ hg =>
      rw [List.map_append, List.map_map, List.append_assoc, List.map_cons, List.cons_append] at hi
      obtain ⟨o, hskip, -⟩ := steps_skip g hq hg hi
      refine ⟨g.length + 1, length_consumed _ _ _, ?_⟩
      rw [steps_add hskip, steps_one, step_end (s := { s with decOut := o, inputs := _ }) hq rfl]
      exact congrArg _ (State.ext hq.symm rfl rfl rfl rfl rfl rfl)
  case shortRead =>
    rw [hread] at hshape
    cases hshape with
    | shortRead g bs _ hg hlen =>
      rw [List.map_append, List.append_assoc] at hi
      obtain ⟨t, hrun, hseq, -, hin, -⟩ := steps_midFrame hq hg hlen hi
      have hend := (steps_add hrun 1).trans ((steps_one t).trans (step_short hseq hin))
      exact ⟨_, _, _, length_consumed _ _ _, hend, rfl, rfl, rfl, rfl⟩
  case waiting =>
    rw [hread] at hshape
    cases hshape with
    | quiet g hg =>
      have hg' : g ≠ [] := mt (congrArg (List.map RxEvent.rxByte)) hne
      rw [List.map_map] at hi
      obtain ⟨o, hskip, hout⟩ := steps_skip g hq hg hi
      exact ⟨_, by rw [List.length_map]; exact hskip, by simp [hq], hout hg', rfl⟩
    | midFrame g bs hg hlen =>
      obtain ⟨t, hrun, hseq, hout, hin, -⟩ := steps_midFrame hq hg hlen hi
      exact ⟨t, by rw [List.length_map]; exact hrun, by simp [hseq], hout, hin⟩

end Sys2Proof.Machine
end

section
/-! SUPPORT. A 16-bit field as a number (R49). -/

namespace Sys2Proof

/-- A 16-bit field holds its low byte plus 256 times its high byte, with no wrap (R49). -/
theorem le16_toNat (lo hi : Byte) : (le16 lo hi).toNat = lo.toNat + 256 * hi.toNat := by
  have := lo.isLt
  have := hi.isLt
  rw [le16, BitVec.toNat_ofNat]
  omega

namespace Machine

/-- Settles O23: the ports read `le16` of the places of `frameOf`, and DECODE reads the same. -/
theorem fieldsAreLittleEndian : Obligations.FieldsAreLittleEndian := by
  refine ⟨le16_toNat, fun _ _ => ⟨le16_toNat _ _, le16_toNat _ _, le16_toNat _ _⟩,
    fun cfg buf => ⟨fun hmeas => ?measurement, fun hmeas hdev => ?deviceInfo⟩⟩
  case measurement => exact congrArg Result.variant (if_pos hmeas)
  case deviceInfo => exact congrArg Result.variant ((if_neg hmeas).trans (if_pos hdev))

end Machine
end Sys2Proof
end

section
/-! SUPPORT. Payloads on the wire: padding, and the request a command byte and a payload make (R47, R50). -/

namespace Sys2Proof

/-- Zero bytes at the end of a payload are padding, while it fits (R50). -/
theorem padPayload_append_zeros {P : List Byte} {k : Nat} (h : P.length + k ≤ 12) :
    padPayload (P ++ List.replicate k 0) = padPayload P := by
  simp only [padPayload, List.append_assoc, List.replicate_append_replicate, List.length_append, List.length_replicate]
  congr 2
  show k + (12 - (P.length + k)) = 12 - P.length
  omega

/-- A code without a name makes the reserved form (R52). -/
theorem ofRequest_reserved {cmd : Byte} (h : cmd ∉ namedCommands) (P : List Byte) :
    Instr.ofRequest cmd P = .encReserved cmd P := by
  simp only [namedCommands, List.mem_cons, List.not_mem_nil, or_false, not_or] at h
  obtain ⟨h2, h4, h5, h6, h7, h8⟩ := h
  simp only [Instr.ofRequest, h2, h4, h5, h6, h7, h8, if_false]

/-- What holds of each of the seven forms holds of the form of every request (R47, R52). -/
theorem ofRequest_cases (P : List Byte) {motive : Byte → Instr → Prop}
    (setmode : motive CMD_SETMODE (.encSetmode P)) (querydata : motive CMD_QUERYDATA (.encQuerydata P))
    (deviceid : motive CMD_DEVICEID (.encDeviceid P)) (sleep : motive CMD_SLEEP (.encSleep P))
    (firmware : motive CMD_FIRMWARE (.encFirmware P)) (workingperiod : motive CMD_WORKINGPERIOD (.encWorkingperiod P))
    (reserved : ∀ cmd, cmd ∉ namedCommands → motive cmd (.encReserved cmd P)) (cmd : Byte) :
    motive cmd (Instr.ofRequest cmd P) := by
  by_cases hcmd : cmd ∈ namedCommands
  · simp only [namedCommands, List.mem_cons, List.not_mem_nil, or_false] at hcmd
    obtain rfl | rfl | rfl | rfl | rfl | rfl := hcmd
    exacts [setmode, querydata, deviceid, sleep, firmware, workingperiod]
  · rw [ofRequest_reserved hcmd]
    exact reserved cmd hcmd

/-- The words of a request are the frame of its command byte and its padded payload (R45, R67). -/
theorem encode_ofRequest (cmd : Byte) (P : List Byte) :
    encode (Instr.ofRequest cmd P) = outFrame cmd (padPayload P) :=
  ofRequest_cases P (motive := fun c i => encode i = outFrame c (padPayload P)) rfl rfl rfl rfl rfl rfl
    (fun _ _ => rfl) cmd

/-- Padding a request pads its payload (R50). -/
theorem padded_ofRequest (cmd : Byte) (P : List Byte) :
    (Instr.ofRequest cmd P).padded = Instr.ofRequest cmd (padPayload P) :=
  ofRequest_cases P (motive := fun c i => i.padded = Instr.ofRequest c (padPayload P)) rfl rfl rfl rfl rfl rfl
    (fun _ hcmd => (ofRequest_reserved hcmd _).symm) cmd

/-- A well-formed operation of the encoder is the form of a request that fits (R47, R68). -/
theorem exists_ofRequest {cfg : Config} {i : Instr} (hwf : i.wf cfg = true) (hsel : i.selectedIn .encoder = true) :
    ∃ cmd P, P.length ≤ 12 ∧ i = Instr.ofRequest cmd P := by
  cases i with
  | encSetmode P => exact ⟨CMD_SETMODE, P, of_decide_eq_true hwf, rfl⟩
  | encQuerydata P => exact ⟨CMD_QUERYDATA, P, of_decide_eq_true hwf, rfl⟩
  | encDeviceid P => exact ⟨CMD_DEVICEID, P, of_decide_eq_true hwf, rfl⟩
  | encSleep P => exact ⟨CMD_SLEEP, P, of_decide_eq_true hwf, rfl⟩
  | encFirmware P => exact ⟨CMD_FIRMWARE, P, of_decide_eq_true hwf, rfl⟩
  | encWorkingperiod P => exact ⟨CMD_WORKINGPERIOD, P, of_decide_eq_true hwf, rfl⟩
  | encReserved cmd P =>
    obtain ⟨hcmd, hfits⟩ := Bool.and_eq_true_iff.mp hwf
    exact ⟨cmd, P, of_decide_eq_true hfits, (ofRequest_reserved (of_decide_eq_true hcmd) P).symm⟩
  | decMeas | decDevinfo | decUnknown | resyncStart | resyncSkip | readFrameBody | readFrameLast | resyncEnd
  | readFrameShort => cases hsel

namespace Machine

/-- ENCODE of a payload that fits is its frame (R67). -/
theorem encodeFrame_of_fits {P : List Byte} (h : P.length ≤ 12) (cmd : Byte) :
    encodeFrame cmd P = .txFrame (outFrame cmd (padPayload P)) :=
  if_neg (Nat.not_lt.mpr h)

/-- Settles O6: both payloads fit and pad to the same 12 bytes. -/
theorem trailingZerosInvisible : Obligations.TrailingZerosInvisible := by
  intro cmd P k h
  have hfits : (P ++ List.replicate k (0 : Byte)).length ≤ 12 := by simpa using h
  rw [encodeFrame_of_fits hfits, encodeFrame_of_fits (by omega), padPayload_append_zeros h]

end Machine
end Sys2Proof
end

section
/-! SUPPORT. Which words are an `OUT19` frame, and what they are read as (R45, R57). -/

namespace Sys2Proof

/-- The words have 19 bytes and the five constants of `OUT19` in place (R45): all that its decoder asks for. -/
def HasOutConstants (F : List Byte) : Prop :=
  F.length = 19 ∧ ∀ c ∈ outConstants, F[c.1]? = some c.2

theorem hasOutConstants_iff (F : List Byte) : HasOutConstants F ↔
    F.length = 19 ∧ F[0]? = some 0xAA ∧ F[1]? = some 0xB4 ∧ F[15]? = some 0xFF ∧ F[16]? = some 0xFF ∧
      F[18]? = some 0xAB := by
  simp [HasOutConstants, outConstants]

/-- A byte of 19 words read with a default is the byte there. -/
theorem getD_eq_iff_of_mem_outConstants {F : List Byte} (h : F.length = 19) {c : Nat × Byte} (hc : c ∈ outConstants) :
    F.getD c.1 0 = c.2 ↔ F[c.1]? = some c.2 := by
  have hlt : c.1 < F.length := h ▸ (show ∀ c ∈ outConstants, c.1 < 19 by decide) c hc
  rw [List.getD_eq_getElem _ _ hlt, List.getElem?_eq_getElem hlt, Option.some_inj]

/-- What the decoder of `OUT19` can answer, said once: the request of the command byte and the payload bytes, by the
constants alone (R45, R57). -/
theorem decodeOut19_cases (F : List Byte) :
    (HasOutConstants F ∧ decodeOut19 F = .instr (Instr.ofRequest (F.getD 2 0) ((F.drop 3).take 12))) ∨
    (¬ HasOutConstants F ∧ ∃ e, decodeOut19 F = .rejected e) := by
  unfold decodeOut19
  split
  next hlen => exact .inr ⟨fun h => hlen h.1, _, rfl⟩
  next hlen =>
    have hlen : F.length = 19 := not_not.mp hlen
    split
    next c hbad =>
      have hmem := List.mem_of_find?_eq_some hbad
      have hne : F.getD c.1 0 ≠ c.2 := by simpa using List.find?_some hbad
      exact .inr ⟨fun h => hne ((getD_eq_iff_of_mem_outConstants hlen hmem).mpr (h.2 c hmem)), _, rfl⟩
    next hgood =>
      refine .inl ⟨⟨hlen, fun c hmem => (getD_eq_iff_of_mem_outConstants hlen hmem).mp ?_⟩, rfl⟩
      simpa using List.find?_eq_none.mp hgood c hmem

theorem decodeOut19_of_hasOutConstants {F : List Byte} (h : HasOutConstants F) :
    decodeOut19 F = .instr (Instr.ofRequest (F.getD 2 0) ((F.drop 3).take 12)) := by
  obtain ⟨-, heq⟩ | ⟨hno, -⟩ := decodeOut19_cases F
  · exact heq
  · exact absurd h hno

/-- An outbound frame is read back as the request of its command byte and its 12 data bytes (R45). -/
theorem decodeOut19_outFrame (cmd : Byte) {data : List Byte} (h : data.length = 12) :
    decodeOut19 (outFrame cmd data) = .instr (Instr.ofRequest cmd data) := by
  have hconst : HasOutConstants (outFrame cmd data) := by
    simp [hasOutConstants_iff, outFrame_eq, h]
  rw [decodeOut19_of_hasOutConstants hconst, outFrame_eq]
  simp [← h]

/-- An `OUT19` word is accepted by its length and its constants alone (R45). -/
theorem exists_decodeOut19_iff (F : List Byte) : (∃ i, decodeOut19 F = .instr i) ↔ HasOutConstants F := by
  obtain ⟨hconst, heq⟩ | ⟨hno, e, heq⟩ := decodeOut19_cases F
  · simp [heq, hconst]
  · simp [heq, hno]

/-- Ten bytes are the bytes of a frame (R46). -/
theorem exists_frame_of_length {F : List Byte} (h : F.length = 10) : ∃ f : InFrame, F = f.bytes :=
  match F, h with
  | [s, ty, d0, d1, d2, d3, d4, d5, ck, tm], _ => ⟨⟨s, ty, ⟨d0, d1, d2, d3, d4, d5⟩, ck, tm⟩, rfl⟩

/-- Words that are not ten are no `IN10` frame (R46). -/
theorem decodeIn10_of_length_ne {F : List Byte} (h : F.length ≠ 10) (cfg : Config) :
    decodeIn10 cfg F = .rejected (.length 10 F.length) := by
  unfold decodeIn10
  split
  · exact absurd rfl h
  · rfl

/-- An `IN10` word is accepted by its length and its start byte alone (R54). -/
theorem exists_decodeIn10_iff (cfg : Config) (F : List Byte) :
    (∃ i, decodeIn10 cfg F = .instr i) ↔ F.length = 10 ∧ F[0]? = some 0xAA := by
  by_cases hlen : F.length = 10
  · obtain ⟨f, rfl⟩ := exists_frame_of_length hlen
    have hstart : f.bytes[0]? = some 0xAA ↔ f.start = START := Option.some_inj
    rw [Machine.decodeIn10_bytes, hstart]
    split
    next h => simp [h]
    next h => simpa using h
  · simp [decodeIn10_of_length_ne hlen, hlen]

namespace Machine

/-- Settles O50: every well-formed request is the form of a command byte and a payload, and its padded payload makes
the same frame. -/
theorem shortPayloadReadsBackPadded : Obligations.ShortPayloadReadsBackPadded := by
  intro cfg i hwf hsel
  obtain ⟨cmd, P, hfits, rfl⟩ := exists_ofRequest hwf hsel
  have hlen : (padPayload P).length = 12 := length_padPayload hfits
  rw [padded_ofRequest, padded_ofRequest, padPayload_of_length hlen]
  refine ⟨?readBack, rfl, fun s => ?sameAnswer⟩
  case readBack =>
    rw [encode_ofRequest]
    exact decodeOut19_outFrame cmd hlen
  case sameAnswer =>
    rw [exec_ofRequest, exec_ofRequest, encodeFrame_of_fits hlen.le, encodeFrame_of_fits hfits,
      padPayload_of_length hlen]

/-- Settles O52, by the shape of the two decoders of frames: the constants, and the start byte. -/
theorem acceptedWords : Obligations.AcceptedWords := fun cfg w =>
  ⟨(exists_decodeOut19_iff w).trans (hasOutConstants_iff w), exists_decodeIn10_iff cfg w⟩

end Machine
end Sys2Proof
end

section
/-! SUPPORT. A frame written as one number (R57). -/

namespace Sys2Proof

/-- The number with frame offset 0 leftmost stands for the bytes of a frame that begins with the start byte (R57). -/
theorem tableBytes_leftmost {F : List Byte} {n : Nat} (hn : n = 8 * F.length) (hfirst : F[0]? = some START) :
    tableBytes n (lanesValue F.reverse) = F := by
  have hlast : F.reverse.getLast? = some START := by rw [List.getLast?_reverse, List.head?_eq_getElem?, hfirst]
  rw [tableBytes_lanesValue _ _ (by rw [List.length_reverse, hn]), if_pos hlast, List.reverse_reverse]

/-- The number with bit 0 the least significant bit of the first byte stands for the bytes of a list that does not end
with the start byte (notes/assumptions/9.md). -/
theorem tableBytes_lowFirst {F : List Byte} {n : Nat} (hn : n = 8 * F.length)
    (hlast : F[F.length - 1]? ≠ some START) : tableBytes n (lanesValue F) = F := by
  rw [tableBytes_lanesValue _ _ hn, if_neg (List.getLast?_eq_getElem? ▸ hlast)]

theorem decodeTableWord_in10 (w : Nat) :
    decodeTableWord 80 w = (decode Config.default (.decoder .decoded) (tableBytes 80 w)).instr? := rfl

theorem decodeTableWord_out19 (w : Nat) :
    decodeTableWord 152 w = (decode Config.default .encoder (tableBytes 152 w)).instr? := rfl

namespace Machine

/-- Settles O55: either number of a frame stands for the bytes of the frame, which the decoder of its slot reads. -/
theorem tableWordsReadOffsetZeroLeftmost : Obligations.TableWordsReadOffsetZeroLeftmost := by
  intro F hfirst
  refine ⟨fun hlen => ⟨?in10, fun hlast => ?in10LowFirst⟩, fun hlen => ⟨?out19, fun hlast => ?out19LowFirst⟩⟩
  case in10 => rw [decodeTableWord_in10, tableBytes_leftmost (by rw [hlen]) hfirst]
  case in10LowFirst => rw [decodeTableWord_in10, tableBytes_lowFirst (by rw [hlen]) (hlen ▸ hlast)]
  case out19 => rw [decodeTableWord_out19, tableBytes_leftmost (by rw [hlen]) hfirst]
  case out19LowFirst => rw [decodeTableWord_out19, tableBytes_lowFirst (by rw [hlen]) (hlen ▸ hlast)]

end Machine
end Sys2Proof
end

section
/-! SUPPORT. The rows of the opcode table that some bytes select, format by format (R57). -/

namespace Sys2Proof

/-- A mask byte `0xFF` keeps the byte, in the table's spelling of all ones. -/
@[simp] theorem byte_and_FF (b : Byte) : b &&& 0xFF#8 = b := BitVec.and_allOnes

/-- The rows selected: those of the format, and of them those whose `F AND mask = match` (R57). -/
theorem rowsSelected_eq (cfg : Config) (fmt : Format) (F : List Byte) :
    rowsSelected cfg fmt F =
      (((opcodeTable cfg).filter (fun r => decide (r.format = fmt))).filter (·.selects F)).map Row.mnemonic := by
  simp only [rowsSelected, List.filter_filter, Bool.and_comm]

theorem rowsSelected_head? (cfg : Config) (fmt : Format) (F : List Byte) :
    (rowsSelected cfg fmt F).head? =
      (((opcodeTable cfg).filter (fun r => decide (r.format = fmt))).find? (·.selects F)).map Row.mnemonic := by
  rw [rowsSelected_eq, List.head?_map, List.head?_filter]

section formats
variable (cfg : Config)

theorem decRows_format {r : Row} (h : r ∈ decRows cfg) : r.format = .in10 := by
  simp only [decRows, List.mem_append, List.mem_singleton, List.mem_map] at h
  obtain (rfl | ⟨ty, -, rfl⟩) | rfl := h <;> rfl

theorem opcodeTable_filter_in10 :
    (opcodeTable cfg).filter (fun r => decide (r.format = .in10)) = decRows cfg := by
  have hall : (decRows cfg).filter (fun r => decide (r.format = .in10)) = decRows cfg :=
    List.filter_eq_self.mpr fun r hr => decide_eq_true (decRows_format cfg hr)
  rw [opcodeTable, List.filter_append, List.filter_append, hall]
  exact List.append_nil _

/-- The rows of a format that is not `IN10` do not depend on the parameter. -/
theorem opcodeTable_filter_of_ne_in10 {fmt : Format} (h : fmt ≠ .in10) :
    (opcodeTable cfg).filter (fun r => decide (r.format = fmt)) =
      (encRows ++ streamRows).filter (fun r => decide (r.format = fmt)) := by
  have hnone : (decRows cfg).filter (fun r => decide (r.format = fmt)) = [] :=
    List.filter_eq_nil_iff.mpr fun r hr heq => h (of_decide_eq_true heq ▸ decRows_format cfg hr)
  rw [opcodeTable, List.filter_append, List.filter_append, hnone, List.append_nil, List.filter_append]

theorem opcodeTable_filter_out19 : (opcodeTable cfg).filter (fun r => decide (r.format = .out19)) = encRows := by
  rw [opcodeTable_filter_of_ne_in10 cfg (by decide)]
  rfl

end formats

/-- `OUT19` rows: the constants and the command byte under the row's mask (R57). -/
theorem selects_outRow (name : String) (cmd m : Byte) (F : List Byte) :
    (Row.mk name .out19 (outPattern cmd) (outMask m)).selects F = true ↔
      HasOutConstants F ∧ F.getD 2 0 &&& m = cmd := by
  by_cases hlen : F.length = 19
  · match F, hlen with
    | [b0, b1, b2, b3, b4, b5, b6, b7, b8, b9, b10, b11, b12, b13, b14, b15, b16, b17, b18], _ =>
      simp [Row.selects, outPattern, outMask, hasOutConstants_iff]
      tauto
  · simp [Row.selects, outMask, HasOutConstants, hlen]

/-- The command byte of an `OUT19` frame is the row's, under its mask (R57). -/
def Row.takesCommand (r : Row) (cmd : Byte) : Bool :=
  decide (cmd &&& r.mask.getD 2 0 = r.pattern.getD 2 0)

/-- An `OUT19` row selects a frame by the constants and the command byte (R57). -/
theorem selects_of_mem_encRows {r : Row} (hr : r ∈ encRows) (F : List Byte) :
    r.selects F = true ↔ HasOutConstants F ∧ r.takesCommand (F.getD 2 0) = true := by
  rw [Row.takesCommand, decide_eq_true_iff]
  simp only [encRows, List.mem_cons, List.not_mem_nil, or_false] at hr
  obtain rfl | rfl | rfl | rfl | rfl | rfl | rfl := hr <;> exact selects_outRow _ _ _ F

/-- The first row, in priority order, that takes a command byte is that of its form (R47, R57). -/
theorem encRows_find?_takesCommand (cmd : Byte) (P : List Byte) :
    (encRows.find? (·.takesCommand cmd)).map Row.mnemonic = some (Instr.ofRequest cmd P).mnemonic := by
  refine ofRequest_cases P
    (motive := fun c i => (encRows.find? (·.takesCommand c)).map Row.mnemonic = some i.mnemonic)
    rfl rfl rfl rfl rfl rfl (fun cmd hcmd => ?_) cmd
  have hne : cmd ≠ 2#8 ∧ cmd ≠ 4#8 ∧ cmd ≠ 5#8 ∧ cmd ≠ 6#8 ∧ cmd ≠ 7#8 ∧ cmd ≠ 8#8 := by simpa using hcmd
  simp [encRows, Row.takesCommand, outMask, outPattern, hne, Instr.mnemonic]

/-- The `OUT19` decoder reads the first row that selects the words, and nothing where there is none (R57). -/
theorem decodeOut19_mnemonic (F : List Byte) :
    (decodeOut19 F).instr?.map Instr.mnemonic = (encRows.find? (·.selects F)).map Row.mnemonic := by
  obtain ⟨hconst, heq⟩ | ⟨hno, e, heq⟩ := decodeOut19_cases F
  · have hsel : encRows.find? (·.selects F) = encRows.find? (·.takesCommand (F.getD 2 0)) := by
      refine List.find?_congr fun r hr => Bool.eq_iff_iff.mpr ?_
      rw [selects_of_mem_encRows hr, and_iff_right hconst]
    rw [heq, hsel, encRows_find?_takesCommand]
    rfl
  · have hsel : encRows.find? (·.selects F) = none :=
      List.find?_eq_none.mpr fun r hr h => hno ((selects_of_mem_encRows hr F).mp h).1
    rw [heq, hsel]
    rfl

/-- A row with a type: the start byte and the row's type byte (R57). -/
theorem selects_typeRow (name : String) (ty : Byte) (f : InFrame) :
    (typeRow name ty).selects f.bytes = true ↔ f.start = START ∧ f.type = ty := by
  simp [Row.selects, typeRow, InFrame.bytes, InPayload.bytes]

/-- The row of any other type: the start byte alone (R57). -/
theorem selects_unknownRow (f : InFrame) :
    (Row.mk "DEC.UNKNOWN" .in10 ([0xAA, 0x00] ++ List.replicate 8 0) ([0xFF, 0x00] ++ List.replicate 8 0)).selects
      f.bytes = true ↔ f.start = START := by
  simp [Row.selects, InFrame.bytes, InPayload.bytes]

/-- An `IN10` row selects ten bytes that begin with the start byte, if any (R54, R57). -/
theorem of_selects_of_mem_decRows {cfg : Config} {r : Row} (hr : r ∈ decRows cfg) {F : List Byte}
    (h : r.selects F = true) : F.length = 10 ∧ F[0]? = some 0xAA := by
  simp only [decRows, List.mem_append, List.mem_singleton, List.mem_map] at hr
  have hlen : F.length = 10 := by
    obtain (rfl | ⟨ty, -, rfl⟩) | rfl := hr <;> exact of_decide_eq_true (Bool.and_eq_true_iff.mp h).1
  obtain ⟨f, rfl⟩ := exists_frame_of_length hlen
  have hstart : f.start = START := by
    obtain (rfl | ⟨ty, -, rfl⟩) | rfl := hr
    · exact ((selects_typeRow _ _ f).mp h).1
    · exact ((selects_typeRow _ _ f).mp h).1
    · exact (selects_unknownRow f).mp h
  exact ⟨hlen, congrArg some hstart⟩

/-- Among the `DEC.DEVINFO` rows the first to select a frame is that of its type, if the parameter has it (R8, R57). -/
theorem devinfoRows_find? {f : InFrame} (h : f.start = START) (tys : List Byte) :
    (tys.map (typeRow "DEC.DEVINFO")).find? (·.selects f.bytes) =
      if f.type ∈ tys then some (typeRow "DEC.DEVINFO" f.type) else none := by
  induction tys with
  | nil => rfl
  | cons ty tys ih =>
    have hsel : (typeRow "DEC.DEVINFO" ty).selects f.bytes = decide (f.type = ty) := by
      rw [Bool.eq_iff_iff, selects_typeRow, decide_eq_true_iff, and_iff_right h]
    rw [List.map_cons, List.find?_cons, hsel, ih]
    by_cases hty : f.type = ty <;> simp [hty]

/-- The first `IN10` row that selects a frame is the form of the frame (R57, R94). -/
theorem decRows_find?_mnemonic {f : InFrame} (h : f.start = START) (cfg : Config) :
    ((decRows cfg).find? (·.selects f.bytes)).map Row.mnemonic = some (Instr.ofFrame cfg f).mnemonic := by
  have hmeas : (typeRow "DEC.MEAS" 0xC0).selects f.bytes = decide (f.type = MEAS_TYPE) := by
    rw [Bool.eq_iff_iff, selects_typeRow, decide_eq_true_iff, and_iff_right h]
  rw [decRows, List.find?_append, List.find?_append, devinfoRows_find? h, List.find?_singleton, List.find?_singleton,
    hmeas, if_pos ((selects_unknownRow f).mpr h)]
  by_cases hty : f.type = MEAS_TYPE
  · rw [if_pos (decide_eq_true hty), Instr.ofFrame, if_pos hty]
    rfl
  · rw [if_neg (mt of_decide_eq_true hty), Instr.ofFrame, if_neg hty]
    split <;> rfl

/-- The `IN10` decoder reads the first row that selects the words, and nothing where there is none (R57). -/
theorem decodeIn10_mnemonic (cfg : Config) (F : List Byte) :
    (decodeIn10 cfg F).instr?.map Instr.mnemonic = ((decRows cfg).find? (·.selects F)).map Row.mnemonic := by
  by_cases hacc : F.length = 10 ∧ F[0]? = some 0xAA
  · obtain ⟨hlen, hfirst⟩ := hacc
    obtain ⟨f, rfl⟩ := exists_frame_of_length hlen
    have hstart : f.start = START := Option.some_inj.mp hfirst
    rw [decRows_find?_mnemonic hstart, Machine.decodeIn10_bytes, if_pos hstart]
    rfl
  · have hrej : (decodeIn10 cfg F).instr? = none := by
      cases hdec : decodeIn10 cfg F with
      | instr i => exact absurd ((exists_decodeIn10_iff cfg F).mp ⟨i, hdec⟩) hacc
      | rejected e => rfl
    have hsel : (decRows cfg).find? (·.selects F) = none :=
      List.find?_eq_none.mpr fun r hr h => hacc (of_selects_of_mem_decRows hr h)
    rw [hrej, hsel]
    rfl

/-- The `BYTE1` rows: the start byte, then any byte (R81, R82). -/
theorem rowsSelected_byte1 (cfg : Config) (b : Byte) :
    rowsSelected cfg .byte1 [b] = if b = START then ["RESYNC.START", "RESYNC.SKIP"] else ["RESYNC.SKIP"] := by
  rw [rowsSelected_eq, opcodeTable_filter_of_ne_in10 cfg (by decide)]
  by_cases h : b = 0xAA#8 <;> simp [encRows, streamRows, Row.selects, h]

/-- Any byte in a frame body is selected by both `BODY1` rows (R57). -/
theorem rowsSelected_body1 (cfg : Config) (b : Byte) :
    rowsSelected cfg .body1 [b] = ["READ_FRAME.BODY", "READ_FRAME.LAST"] := by
  rw [rowsSelected_eq, opcodeTable_filter_of_ne_in10 cfg (by decide)]
  simp [encRows, streamRows, Row.selects]

namespace Machine

/-- Settles O53, slot by slot: the rows of the format that select the words, in the table's order. -/
theorem decodeReadsFirstMatchingRow : Obligations.DecodeReadsFirstMatchingRow := by
  intro cfg w
  refine ⟨?out19, ?in10, fun hlen => ?byte1, fun c hlen => ?body1⟩
  case out19 =>
    rw [rowsSelected_head?, opcodeTable_filter_out19]
    exact decodeOut19_mnemonic w
  case in10 =>
    rw [rowsSelected_head?, opcodeTable_filter_in10]
    exact decodeIn10_mnemonic cfg w
  case byte1 =>
    obtain ⟨b, rfl⟩ := List.length_eq_one_iff.mp hlen
    rw [rowsSelected_byte1, decode_byte_instr?]
    by_cases h : b = 0xAA#8 <;> simp [rxInstr, Instr.ofSeekByte, h, Instr.mnemonic]
  case body1 =>
    obtain ⟨b, rfl⟩ := List.length_eq_one_iff.mp hlen
    rw [rowsSelected_body1, decode_byte_instr?]
    refine ⟨rfl, ?_⟩
    by_cases h : c.val < 8 <;> simp [rxInstr, Instr.ofBodyByte, h, Instr.mnemonic]

end Machine
end Sys2Proof
end

section
/-! SUPPORT. The two checksums as 8-bit sums (R58, R61), and what a decode result takes from each byte of its frame
(R62 to R64). -/

namespace Sys2Proof

/-- The order of the bytes plays no part in their sum (R58). -/
theorem sumBytes_perm {data data' : List Byte} (h : data.Perm data') : sumBytes data = sumBytes data' :=
  (h.map BitVec.toNat).sum_eq

/-- Adding bytes one by one onto an accumulator adds their integer sum, reduced once (R58). -/
theorem foldl_add_eq_ofNat_sumBytes (acc : Byte) (data : List Byte) :
    data.foldl (· + ·) acc = BitVec.ofNat 8 (sumBytes data) + acc := by
  induction data generalizing acc with
  | nil => simp
  | cons b bs ih =>
    rw [List.foldl_cons, ih, sumBytes_cons, BitVec.ofNat_add, BitVec.ofNat_toNat, BitVec.setWidth_eq]
    ac_rfl

/-- The outbound checksum as an 8-bit accumulation onto the command byte (R58, R66). -/
theorem chkOut_eq_foldl (cmd : Byte) (data : List Byte) : chkOut cmd data = data.foldl (· + ·) cmd + 0xFE := by
  rw [chkOut_eq_ofNat, foldl_add_eq_ofNat_sumBytes, BitVec.ofNat_add, BitVec.ofNat_add, BitVec.ofNat_toNat,
    BitVec.setWidth_eq]
  rfl

/-- The inbound checksum as an 8-bit sum in frame order (R58, R61). -/
theorem chkIn_eq_add (f : InFrame) :
    chkIn f = f.type + f.payload.d0 + f.payload.d1 + f.payload.d2 + f.payload.d3 + f.payload.d4 + f.payload.d5 := by
  simp only [chkIn_eq_ofNat, BitVec.ofNat_add, BitVec.ofNat_toNat, BitVec.setWidth_eq, add_assoc]

/-- The inbound checksum as a number: the sum of its seven bytes modulo 256 (R61). -/
theorem chkIn_toNat (f : InFrame) :
    (chkIn f).toNat = (f.type.toNat + f.payload.d0.toNat + f.payload.d1.toNat + f.payload.d2.toNat
      + f.payload.d3.toNat + f.payload.d4.toNat + f.payload.d5.toNat) % 256 := by
  simp only [chkIn_eq_ofNat, BitVec.toNat_ofNat, Nat.reducePow, add_assoc]

/-- The inbound checksum sees the type byte and the payload alone (R61). -/
theorem chkIn_congr {f g : InFrame} (htype : f.type = g.type) (hpayload : f.payload = g.payload) :
    chkIn f = chkIn g := by
  rw [chkIn_eq_add, chkIn_eq_add, htype, hpayload]

@[simp] theorem decodeFrame_checksum_ok (cfg : Config) (f : InFrame) :
    (decodeFrame cfg f).checksum_ok = checksumOk f := by
  obtain ⟨v, hv⟩ := decodeFrame_eq_resultOf cfg f
  rw [hv, resultOf]

@[simp] theorem decodeFrame_terminator_ok (cfg : Config) (f : InFrame) :
    (decodeFrame cfg f).terminator_ok = terminatorOk f := by
  obtain ⟨v, hv⟩ := decodeFrame_eq_resultOf cfg f
  rw [hv, resultOf]

@[simp] theorem decodeFrame_type (cfg : Config) (f : InFrame) : (decodeFrame cfg f).type = f.type := by
  obtain ⟨v, hv⟩ := decodeFrame_eq_resultOf cfg f
  rw [hv, resultOf]

@[simp] theorem decodeFrame_payload (cfg : Config) (f : InFrame) : (decodeFrame cfg f).payload = f.payload := by
  obtain ⟨v, hv⟩ := decodeFrame_eq_resultOf cfg f
  rw [hv, resultOf]

/-- The variant of a result sees the type byte and the payload alone (R64, R94). -/
theorem decodeFrame_variant_congr (cfg : Config) {f g : InFrame} (htype : f.type = g.type)
    (hpayload : f.payload = g.payload) : (decodeFrame cfg f).variant = (decodeFrame cfg g).variant := by
  unfold decodeFrame
  rw [htype]
  split
  · simp only [measResult, resultOf, hpayload]
  · split
    · simp only [devinfoResult, resultOf, hpayload]
    · rfl

/-- Some checksum byte gives either value of `checksum_ok`, whatever the terminator byte is (R64). -/
theorem exists_checksumOk_eq (st ty : Byte) (d : InPayload) (a : Bool) :
    ∃ ck, ∀ tm, checksumOk ⟨st, ty, d, ck, tm⟩ = a := by
  have hchk (ck tm : Byte) : chkIn ⟨st, ty, d, ck, tm⟩ = chkIn ⟨st, ty, d, 0, 0⟩ := chkIn_congr rfl rfl
  cases a with
  | true => exact ⟨chkIn ⟨st, ty, d, 0, 0⟩, fun tm => decide_eq_true (hchk _ tm)⟩
  | false =>
    refine ⟨chkIn ⟨st, ty, d, 0, 0⟩ + 1, fun tm => decide_eq_false ?_⟩
    rw [hchk]
    simp

/-- Some terminator byte gives either value of `terminator_ok`, whatever the checksum byte is (R64). -/
theorem exists_terminatorOk_eq (st ty : Byte) (d : InPayload) (b : Bool) :
    ∃ tm, ∀ ck, terminatorOk ⟨st, ty, d, ck, tm⟩ = b := by
  cases b with
  | true => exact ⟨TERM, fun _ => decide_eq_true rfl⟩
  | false => exact ⟨0, fun _ => decide_eq_false (p := (0 : Byte) = TERM) (by decide)⟩

namespace Machine

/-- Settles O7: each checksum is the integer sum reduced once, and reduction commutes with addition. -/
theorem checksumIsByteAccumulation : Obligations.ChecksumIsByteAccumulation :=
  ⟨chkOut_eq_foldl, fun cmd _ _ h => chkOut_congr cmd (sumBytes_perm h), chkIn_eq_add⟩

/-- Settles O9: the formula for a frame, at the fields `frameOf` reads from the buffer. -/
theorem inboundChecksumFormula : Obligations.InboundChecksumFormula :=
  ⟨chkIn_toNat, fun buf => chkIn_toNat (frameOf buf)⟩

/-- Settles O10: each flag is chosen by its own byte, and the rest of the result sees neither byte. -/
theorem flagsIndependentOfDecode : Obligations.FlagsIndependentOfDecode := by
  intro cfg st ty d
  refine ⟨fun a b => ?flags, fun ck tm ck' tm' => ⟨?variant, decodeFrame_type cfg _, decodeFrame_payload cfg _⟩⟩
  case flags =>
    obtain ⟨ck, hck⟩ := exists_checksumOk_eq st ty d a
    obtain ⟨tm, htm⟩ := exists_terminatorOk_eq st ty d b
    exact ⟨ck, tm, (decodeFrame_checksum_ok cfg _).trans (hck tm), (decodeFrame_terminator_ok cfg _).trans (htm ck)⟩
  case variant => exact decodeFrame_variant_congr cfg rfl rfl

end Machine
end Sys2Proof
end

section
/-! SUPPORT. ENCODE as a frame or a refusal: the checksum byte as R59 writes it and as R70 to R75 write it, and the
bytes of a frame produced (R45, R67, R68). -/

namespace Sys2Proof

/-- The outbound checksum as R59 writes it, the modulus floored. -/
theorem chkOut_eq_ofInt_emod (cmd : Byte) (data : List Byte) :
    chkOut cmd data = BitVec.ofInt 8 (((sumBytes data : Int) + (cmd.toNat : Int) - 2) % 256) := by
  apply BitVec.eq_of_toNat_eq
  simp only [chkOut, CHK_OUT_ADJ, BitVec.toNat_ofInt]
  omega

/-- The outbound checksum with the fixed term of a command form in place of the command byte minus two (R70 to R75). -/
theorem chkOut_eq_ofNat_add {cmd : Byte} {adj : Nat} (hadj : cmd.toNat + 254 ≡ adj [MOD 256]) (data : List Byte) :
    chkOut cmd data = BitVec.ofNat 8 ((sumBytes data + adj) % 256) := by
  apply BitVec.eq_of_toNat_eq
  rw [chkOut_eq_ofNat, BitVec.toNat_ofNat, BitVec.toNat_ofNat, Nat.mod_mod, Nat.add_assoc]
  exact hadj.add_left _

/-- An outbound frame of 12 data bytes has the length and the constants of `OUT19` (R45). -/
theorem hasOutConstants_outFrame (cmd : Byte) {data : List Byte} (h : data.length = 12) :
    HasOutConstants (outFrame cmd data) := by
  simp [hasOutConstants_iff, outFrame_eq, h]

/-- The command byte of an outbound frame is at offset 2 (R45). -/
theorem outFrame_getElem?_two (cmd : Byte) (data : List Byte) : (outFrame cmd data)[2]? = some cmd := rfl

namespace Machine

/-- ENCODE of a payload that is too long is the refusal (R68). -/
theorem encodeFrame_of_too_long {P : List Byte} (h : 12 < P.length) (cmd : Byte) :
    encodeFrame cmd P = .payloadTooLarge P.length :=
  if_pos h

/-- The frame of a request is the frame of the command form with that code and that fixed term (R67, R70 to R75). -/
theorem outFrame_padPayload_eq_formFrame {cmd : Byte} {adj : Nat} (hadj : cmd.toNat + 254 ≡ adj [MOD 256])
    (P : List Byte) : outFrame cmd (padPayload P) = formFrame cmd adj P := by
  rw [outFrame, chkOut_eq_ofNat_add hadj, sumBytes_padPayload, padPayload, formFrame, ← List.append_assoc]

/-- A frame that ENCODE hands out is that of the command byte and the padded payload, and the payload fits (R67). -/
theorem eq_outFrame_of_encodeFrame {cmd : Byte} {P F : List Byte} (h : encodeFrame cmd P = .txFrame F) :
    P.length ≤ 12 ∧ F = outFrame cmd (padPayload P) := by
  obtain ⟨hfits, heq⟩ | ⟨-, heq⟩ := encodeFrame_cases cmd P
  · cases heq.symm.trans h
    exact ⟨hfits, rfl⟩
  · cases heq.symm.trans h

section
variable {P : List Byte}

/-- The form a request selects answers the frame if the payload fits (R67). -/
theorem exec_ofRequest_of_fits (h : P.length ≤ 12) (cmd : Byte) (s : State) :
    exec (Instr.ofRequest cmd P) s = .next (s.answer (.txFrame (outFrame cmd (padPayload P)))) := by
  rw [exec_ofRequest, encodeFrame_of_fits h]

/-- The form a request selects answers the frame with the fixed checksum term of that form (R70 to R75). -/
theorem exec_ofRequest_formFrame (h : P.length ≤ 12) {cmd : Byte} {adj : Nat}
    (hadj : cmd.toNat + 254 ≡ adj [MOD 256]) (s : State) :
    exec (Instr.ofRequest cmd P) s = .next (s.answer (.txFrame (formFrame cmd adj P))) := by
  rw [exec_ofRequest_of_fits h, outFrame_padPayload_eq_formFrame hadj]

/-- The form a request selects answers the refusal if the payload is too long (R68). -/
theorem exec_ofRequest_of_too_long (h : 12 < P.length) (cmd : Byte) (s : State) :
    exec (Instr.ofRequest cmd P) s = .next (s.answer (.payloadTooLarge P.length)) := by
  rw [exec_ofRequest, encodeFrame_of_too_long h]

end

/-- Settles O1: ENCODE by the length test, with the checksum of the padded payload in the form of R59. -/
theorem encodeBuildsFrameOrRefuses : Obligations.EncodeBuildsFrameOrRefuses := by
  intro s cmd P
  refine ⟨fun hfits => ?frame, fun hlong => exec_ofRequest_of_too_long hlong cmd s⟩
  case frame =>
    rw [exec_ofRequest_of_fits hfits, outFrame, chkOut_eq_ofInt_emod, sumBytes_padPayload]
    rfl

/-- Settles O2: each named form is the form of the request with its code, and its fixed checksum term is that code
minus two modulo 256. -/
theorem namedCommandForms : Obligations.NamedCommandForms := by
  intro s P
  refine ⟨fun hfits => ?frames, fun hlong => ?refusals⟩
  case frames =>
    have form (cmd : Byte) (adj : Nat) (hadj : cmd.toNat + 254 ≡ adj [MOD 256]) :=
      exec_ofRequest_formFrame hfits hadj s
    exact ⟨form 2 0 rfl, form 4 2 rfl, form 5 3 rfl, form 6 4 rfl, form 7 5 rfl, form 8 6 rfl⟩
  case refusals =>
    have refusal (cmd : Byte) := exec_ofRequest_of_too_long hlong cmd s
    exact ⟨refusal 2, refusal 4, refusal 5, refusal 6, refusal 7, refusal 8⟩

/-- Settles O4: a frame produced is the outbound frame of 12 padded bytes. -/
theorem frameLengthAndConstants : Obligations.FrameLengthAndConstants := by
  intro cmd P F h
  obtain ⟨hfits, rfl⟩ := eq_outFrame_of_encodeFrame h
  obtain ⟨hlen, h0, h1, h15, h16, h18⟩ :=
    (hasOutConstants_iff _).mp (hasOutConstants_outFrame cmd (length_padPayload hfits))
  exact ⟨hlen, h0, h1, outFrame_getElem?_two cmd (padPayload P), h15, h16, h18⟩

end Machine
end Sys2Proof
end

section
/-! SUPPORT. The steps of the stream bytes (R81, R82, R84, R85), and the flags of the frame the last byte completes
(R62, R63). -/

namespace Sys2Proof

theorem checksumOk_iff_toNat (f : InFrame) : checksumOk f = true ↔ (chkIn f).toNat = f.checksum.toNat :=
  decide_eq_true_iff.trans BitVec.toNat_inj.symm

theorem terminatorOk_iff (f : InFrame) : terminatorOk f = true ↔ f.term = TERM :=
  decide_eq_true_iff

/-- A write at offset 9 changes the terminator of the frame and nothing else (R46). -/
theorem frameOf_set_last (buf : Vector Byte 10) (b : Byte) :
    frameOf (buf.set 9 b) = { frameOf buf with term := b } := by
  simp [frameOf]

namespace Machine

/-- Settles O12: skipping a byte is the meaning of the row it selects, which only reports. -/
theorem resyncSkipStep : Obligations.ResyncSkipStep :=
  fun _ b _ hq hb => ⟨exec_resyncSkip hq b, step_skip hq hb⟩

/-- Settles O13: the start byte selects the row that writes `buf[0]` and moves to the frame body. -/
theorem resyncStartStep : Obligations.ResyncStartStep :=
  fun _ _ hq => ⟨exec_resyncStart hq, step_start hq⟩

/-- Settles O15: below the last place every byte selects the row that stores it, the start byte included. -/
theorem readBodyStep : Obligations.ReadBodyStep :=
  fun _ b _ _ hc hq => ⟨exec_readFrameBody hq hc b, step_body hq hc⟩

/-- Settles O16: the flags of the result are those of the completed frame, which the last byte changes in its
terminator alone. -/
theorem readLastStep : Obligations.ReadLastStep := by
  intro s b rest hq
  refine ⟨decodeFrame s.cfg (frameOf (s.buf.set 9 b)), rfl, ?checksum, ?terminator, exec_readFrameLast hq rfl b,
    step_last hq rfl⟩
  case checksum =>
    rw [decodeFrame_checksum_ok, checksumOk_iff_toNat, frameOf_set_last, chkIn_toNat]
    rfl
  case terminator => rw [decodeFrame_terminator_ok, terminatorOk_iff, frameOf_set_last]

end Machine
end Sys2Proof
end

section
/-! SUPPORT. DECODE by the type byte: the row a frame selects (R94), and the record a `DEC.*` row delivers, byte by
byte (R95 to R99). -/

namespace Sys2Proof

section
variable {cfg : Config} {f : InFrame}

theorem Instr.ofFrame_of_meas (h : f.type = MEAS_TYPE) :
    Instr.ofFrame cfg f = .decMeas f.payload f.checksum f.term :=
  if_pos h

theorem Instr.ofFrame_of_devinfo (hmeas : f.type ≠ MEAS_TYPE) (hdev : f.type ∈ cfg.devinfoTypes) :
    Instr.ofFrame cfg f = .decDevinfo f.type f.payload f.checksum f.term :=
  (if_neg hmeas).trans (if_pos hdev)

theorem Instr.ofFrame_of_unknown (hmeas : f.type ≠ MEAS_TYPE) (hdev : f.type ∉ cfg.devinfoTypes) :
    Instr.ofFrame cfg f = .decUnknown f.type f.payload f.checksum f.term :=
  (if_neg hmeas).trans (if_neg hdev)

end

theorem checksumOk_iff (f : InFrame) : checksumOk f = true ↔ chkIn f = f.checksum :=
  decide_eq_true_iff

/-- A result with its flags written over the bytes of the frame: `checksum_ok` compares the sum of the type and all
six payload bytes, whatever fields the variant takes from them (R61 to R63, R99). -/
theorem resultOf_mk (v : Variant) (st ty : Byte) (d : InPayload) (ck tm : Byte) :
    resultOf v ⟨st, ty, d, ck, tm⟩ =
      ⟨v, decide (ty + d.d0 + d.d1 + d.d2 + d.d3 + d.d4 + d.d5 = ck), decide (tm = TERM), ty, d⟩ := by
  rw [resultOf, checksumOk, chkIn_eq_add, terminatorOk]

/-- The PM value of a little-endian field is the exact tenth of its integer (R95, R98). -/
theorem pmValue_le16 (lo hi : Byte) :
    pmValue (le16 lo hi) = ((lo.toNat + 256 * hi.toNat : Nat) : Rat) / 10 := by
  rw [pmValue, le16_toNat]
  rfl

namespace Machine

/-- Settles O19: type `0xC0` selects the row, which delivers the two `le16` fields. -/
theorem measurementRecord : Obligations.MeasurementRecord := by
  refine ⟨fun _ buf => Instr.ofFrame_of_meas (f := frameOf buf),
    fun s d ck tm hq => ⟨?record, pmValue_le16 d.d0 d.d1, pmValue_le16 d.d2 d.d3⟩⟩
  case record =>
    rw [exec_decMeas hq, measResult, resultOf_mk]
    rfl

/-- Settles O20: a type in the parameter selects the row, which delivers the raw date bytes and the `le16` of the
device ID. -/
theorem deviceInfoRecord : Obligations.DeviceInfoRecord := by
  refine ⟨fun _ buf => Instr.ofFrame_of_devinfo (f := frameOf buf), fun s ty d ck tm hq => ?record⟩
  case record =>
    rw [exec_decDevinfo hq, devinfoResult, resultOf_mk]
    rfl

/-- Settles O21: any other type selects the row, which delivers the raw type and payload with the flags. -/
theorem unknownRecord : Obligations.UnknownRecord := by
  refine ⟨fun _ buf => Instr.ofFrame_of_unknown (f := frameOf buf), fun s ty d ck tm hq => ?record⟩
  case record =>
    rw [exec_decUnknown hq, unknownResult, resultOf_mk]
    rfl

/-- Settles O22: the three selections by the type byte, the row's delivery of DECODE, and what DECODE takes from its
frame in every variant. -/
theorem dispatchByTypeByte : Obligations.DispatchByTypeByte := by
  intro cfg f
  refine ⟨Instr.ofFrame_of_meas, Instr.ofFrame_of_devinfo, Instr.ofFrame_of_unknown, fun s hq => exec_ofFrame hq cfg f,
    ?checksum, ?terminator, decodeFrame_type cfg f, decodeFrame_payload cfg f⟩
  case checksum => rw [decodeFrame_checksum_ok, checksumOk_iff]
  case terminator => rw [decodeFrame_terminator_ok, terminatorOk_iff]

end Machine
end Sys2Proof
end

section
/-! SUPPORT. The frame a completing step decodes, whatever its last two bytes: what the soft failures change (R111,
R112). -/

namespace Sys2Proof

/-- A write at offset 8 changes the received checksum of the frame and nothing else (R46). -/
theorem frameOf_set_checksum (buf : Vector Byte 10) (ck : Byte) :
    frameOf (buf.set 8 ck) = { frameOf buf with checksum := ck } := by
  simp [frameOf]

theorem checksumOk_eq_false_iff (f : InFrame) : checksumOk f = false ↔ chkIn f ≠ f.checksum :=
  decide_eq_false_iff_not

theorem terminatorOk_eq_false_iff (f : InFrame) : terminatorOk f = false ↔ f.term ≠ TERM :=
  decide_eq_false_iff_not

namespace Machine

/-- A completing step delivers the decode of the frame in `buf` with the last byte as its terminator (R85). -/
theorem exec_readFrameLast_deliver {s : State} (hq : s.seq = .frameBody 8) (b : Byte) :
    exec (.readFrameLast b) s =
      .next ((s.writeBuf 9 b).deliver (decodeFrame s.cfg { frameOf s.buf with term := b })) := by
  rw [← frameOf_set_last]
  exact exec_readFrameLast hq rfl b

/-- Settles O11: both steps deliver the decode of the same frame but for the checksum byte and the terminator, and
these two reach a result through its flags only. -/
theorem softFailuresChangeOnlyFlags : Obligations.SoftFailuresChangeOnlyFlags := by
  intro s ck b hq
  have completed (ck b : Byte) :
      exec (.readFrameLast b) { s with buf := s.buf.set 8 ck } = .next { s with
        seq := .seekingStart, buf := (s.buf.set 8 ck).set 9 b
        decOut := .frame (decodeFrame s.cfg { frameOf s.buf with checksum := ck, term := b }) } := by
    rw [exec_readFrameLast_deliver (s := { s with buf := s.buf.set 8 ck }) hq, frameOf_set_checksum]
    rfl
  have hchk (ck b : Byte) : chkIn { frameOf s.buf with checksum := ck, term := b } = chkIn (frameOf s.buf) :=
    chkIn_congr rfl rfl
  refine ⟨_, _, completed ck b, completed _ 0xAB, ?goodChecksum, ?goodTerminator, ?checksum, ?terminator,
    decodeFrame_variant_congr s.cfg rfl rfl, ?type, ?payload⟩
  case goodChecksum => rw [decodeFrame_checksum_ok, checksumOk_iff, hchk]
  case goodTerminator => rw [decodeFrame_terminator_ok, terminatorOk_iff]
  case checksum => rw [decodeFrame_checksum_ok, checksumOk_eq_false_iff, hchk]
  case terminator => rw [decodeFrame_terminator_ok, terminatorOk_eq_false_iff]
  case type => rw [decodeFrame_type, decodeFrame_type]
  case payload => rw [decodeFrame_payload, decodeFrame_payload]

end Machine
end Sys2Proof
end

section
/-! SUPPORT. Which conditions a report carries and which codes it shows for them (R103, R104, R111 to R113, R115). -/

namespace Sys2Proof

/-- DECODE answers the variant of no fields exactly for a type of no other row (R94, R97). -/
theorem decodeFrame_variant_eq_unknown_iff (cfg : Config) (f : InFrame) :
    (decodeFrame cfg f).variant = .unknown ↔ f.type ≠ MEAS_TYPE ∧ f.type ∉ cfg.devinfoTypes := by
  unfold decodeFrame
  split
  case isTrue hmeas => simp [measResult, resultOf, hmeas]
  case isFalse hmeas =>
    split
    case isTrue hdev => simp [devinfoResult, resultOf, hdev]
    case isFalse hdev => exact iff_of_true rfl ⟨hmeas, hdev⟩

namespace Machine

/-- The conditions of a result: a soft failure for each flag that is false, and the unknown type for its variant
(R111 to R113). -/
theorem mem_resultConditions {r : Result} {c : Condition} :
    c ∈ resultConditions r ↔ (c = .checksumMismatch ∧ r.checksum_ok = false) ∨
      (c = .badTerminator ∧ r.terminator_ok = false) ∨ (c = .unknownResponseType ∧ r.variant = .unknown) := by
  rw [resultConditions, List.mem_append, List.mem_append, or_assoc]
  refine or_congr ?checksum (or_congr ?terminator ?variant)
  case checksum => cases r.checksum_ok <;> simp
  case terminator => cases r.terminator_ok <;> simp
  case variant => cases r.variant <;> simp

section
variable {cfg : Config} {f : InFrame}

theorem checksumMismatch_mem_resultConditions :
    .checksumMismatch ∈ resultConditions (decodeFrame cfg f) ↔ chkIn f ≠ f.checksum := by
  simp [mem_resultConditions, checksumOk_eq_false_iff]

theorem badTerminator_mem_resultConditions :
    .badTerminator ∈ resultConditions (decodeFrame cfg f) ↔ f.term ≠ TERM := by
  simp [mem_resultConditions, terminatorOk_eq_false_iff]

theorem unknownResponseType_mem_resultConditions :
    .unknownResponseType ∈ resultConditions (decodeFrame cfg f) ↔
      f.type ≠ MEAS_TYPE ∧ f.type ∉ cfg.devinfoTypes := by
  simp [mem_resultConditions, decodeFrame_variant_eq_unknown_iff]

/-- A result carries no condition exactly if its frame passes both checks and is of a known type. -/
theorem resultConditions_eq_nil_iff :
    resultConditions (decodeFrame cfg f) = [] ↔
      chkIn f = f.checksum ∧ f.term = TERM ∧ (f.type = MEAS_TYPE ∨ f.type ∈ cfg.devinfoTypes) := by
  have hnil : resultConditions (decodeFrame cfg f) = [] ↔
      .checksumMismatch ∉ resultConditions (decodeFrame cfg f) ∧
      .badTerminator ∉ resultConditions (decodeFrame cfg f) ∧
      .unknownResponseType ∉ resultConditions (decodeFrame cfg f) := by
    simp [List.eq_nil_iff_forall_not_mem, mem_resultConditions, forall_and]
  rw [hnil, checksumMismatch_mem_resultConditions, badTerminator_mem_resultConditions,
    unknownResponseType_mem_resultConditions]
  simp only [ne_eq, not_not, not_and_or]

end

/-- A report with conditions shows the code of each and no other (notes/assumptions/24.md). -/
theorem mem_conditionCodes {n : Nat} (hn : n ≠ noConditionCode) (cs : List Condition) :
    n ∈ conditionCodes cs ↔ ∃ c ∈ cs, c.code = n := by
  cases cs with
  | nil => simp [conditionCodes, hn]
  | cons c cs => simp only [conditionCodes, List.mem_map]

/-- The codes shown are 0 alone exactly where there is no condition (R104). -/
theorem conditionCodes_eq_zero_iff (cs : List Condition) : conditionCodes cs = [noConditionCode] ↔ cs = [] := by
  constructor
  · intro h
    rw [← zero_mem_conditionCodes, h]
    exact List.mem_singleton_self _
  · rintro rfl
    rfl

/-- The codes separate the conditions: outside the hard errors, which may record a number, a code is that of one
condition (R104). -/
theorem Condition.eq_of_code_eq {c d : Condition} (hc : c.cls ≠ .hard) (h : d.code = c.code) : d = c := by
  cases c with
  | payloadTooLarge | endOfStream | shortRead => exact absurd rfl hc
  | checksumMismatch | badTerminator | unknownResponseType => cases d <;> simp [Condition.code] at h ⊢

/-- A report shows the code of a soft failure or of the unknown type exactly if it carries that condition. -/
theorem code_mem_conditionCodes {c : Condition} (hc : c.cls ≠ .hard) (cs : List Condition) :
    c.code ∈ conditionCodes cs ↔ c ∈ cs := by
  rw [mem_conditionCodes c.code_ne_zero]
  constructor
  · rintro ⟨d, hd, hcode⟩
    exact Condition.eq_of_code_eq hc hcode ▸ hd
  · exact fun h => ⟨c, h, rfl⟩

/-- Settles O56: a report shows the codes of its conditions, and the conditions of a completing step are those of the
completed frame, which the last byte changes in its terminator alone. -/
theorem codesOfReports : Obligations.CodesOfReports := by
  refine ⟨fun _ _ => ⟨rfl, rfl, rfl, rfl, rfl, rfl⟩, fun o => zero_mem_conditionCodes o.conditions,
    fun o c hc => ?shown, fun cmd P => ?request, fun s b hq => ?completing⟩
  case shown => exact (mem_conditionCodes c.code_ne_zero o.conditions).mpr ⟨c, hc, rfl⟩
  case request =>
    obtain ⟨hfits, heq⟩ | ⟨hlong, heq⟩ := encodeFrame_cases cmd P
    · rw [heq, if_neg (Nat.not_lt.mpr hfits), EncOut.codes_txFrame]
    · rw [heq, if_pos hlong, EncOut.codes_payloadTooLarge]
  case completing =>
    have hchk : chkIn { frameOf s.buf with term := b } = chkIn (frameOf s.buf) := chkIn_congr rfl rfl
    refine ⟨_, exec_readFrameLast_deliver hq b, ?none, ?checksum, ?terminator, ?type⟩
    case none =>
      rw [← hchk]
      exact (conditionCodes_eq_zero_iff _).trans resultConditions_eq_nil_iff
    case checksum =>
      rw [← hchk]
      exact (code_mem_conditionCodes (c := .checksumMismatch) (by decide) _).trans checksumMismatch_mem_resultConditions
    case terminator =>
      exact (code_mem_conditionCodes (c := .badTerminator) (by decide) _).trans badTerminator_mem_resultConditions
    case type =>
      exact (code_mem_conditionCodes (c := .unknownResponseType) (by decide) _).trans
        unknownResponseType_mem_resultConditions

end Machine
end Sys2Proof
end

section
/-! SUPPORT. The decoder step function of the table in the rows that test the byte or the count (R89), and the steps of
the machine that agree with it (R81 to R86). -/

namespace Sys2Proof.Machine

section table
variable (cfg : Config) (buf : Vector Byte 10) {b : Byte}

theorem decoderStep_skip (hb : b ≠ START) :
    decoderStep cfg ⟨.seekingStart, 0, buf⟩ (.rxByte b) = (⟨.seekingStart, 0, buf⟩, .none) :=
  if_pos hb

theorem decoderStep_body {c : Fin 9} (hc : c.val < 8) :
    decoderStep cfg ⟨.frameBody, c, buf⟩ (.rxByte b) =
      (⟨.frameBody, ⟨c.val + 1, Nat.succ_lt_succ hc⟩, buf.set (c.val + 1) b⟩, .none) :=
  dif_pos hc

theorem decoderStep_last {c : Fin 9} (hc : ¬ c.val < 8) :
    decoderStep cfg ⟨.frameBody, c, buf⟩ (.rxByte b) =
      (⟨.seekingStart, 0, buf.set 9 b⟩, .frame (decodeFrame cfg (frameOf (buf.set 9 b)))) :=
  dif_neg hc

end table

/-- A stored pair determines the sequencer, and its count is 0 while seeking (R18 (a)). -/
theorem storedPair_eq_some_iff {q : Sequencer} {d : DState} {c : Fin 9} :
    storedPair q = some (d, c) ↔
      (q = .seekingStart ∧ d = .seekingStart ∧ c = 0) ∨ (q = .frameBody c ∧ d = .frameBody) := by
  cases q with
  | seekingStart => simp [storedPair, eq_comm]
  | frameBody c' => simp [storedPair, and_comm, eq_comm]
  | decoded => simp [storedPair]

/-- A state shows what a row of the table answers: the triple of R11 and the output. -/
def State.Shows (t : State) (row : Triple × DecOut) : Prop :=
  storedPair t.seq = some (row.1.dstate, row.1.cnt) ∧ t.buf = row.1.buf ∧ t.decOut = row.2

/-- While seeking a step answers the row of the table (R81 to R83, R89). -/
theorem step_shows_of_seeking {s : State} {rest : List Input} (hq : s.seq = .seekingStart) (ev : RxEvent)
    (hi : s.inputs = .rx ev :: rest) :
    ∃ t, step s = .next t ∧ t.Shows (decoderStep s.cfg ⟨.seekingStart, 0, s.buf⟩ ev) := by
  cases ev with
  | rxEnd => exact ⟨_, step_end hq hi, rfl, rfl, rfl⟩
  | rxByte b =>
    by_cases hb : b = START
    · subst hb
      exact ⟨_, step_start hq hi, rfl, rfl, rfl⟩
    · refine ⟨_, step_skip hq hb hi, ?_⟩
      rw [decoderStep_skip s.cfg s.buf hb]
      exact ⟨congrArg storedPair hq, rfl, rfl⟩

/-- In a frame body a step answers the row of the table (R84 to R86, R89). -/
theorem step_shows_of_body {s : State} {c : Fin 9} {rest : List Input} (hq : s.seq = .frameBody c) (ev : RxEvent)
    (hi : s.inputs = .rx ev :: rest) :
    ∃ t, step s = .next t ∧ t.Shows (decoderStep s.cfg ⟨.frameBody, c, s.buf⟩ ev) := by
  cases ev with
  | rxEnd => exact ⟨_, step_short hq hi, rfl, rfl, rfl⟩
  | rxByte b =>
    by_cases hc : c.val < 8
    · refine ⟨_, step_body hq hc hi, ?_⟩
      rw [decoderStep_body s.cfg s.buf hc]
      exact ⟨rfl, rfl, rfl⟩
    · refine ⟨_, step_last hq (by omega) hi, ?_⟩
      rw [decoderStep_last s.cfg s.buf hc]
      exact ⟨rfl, rfl, rfl⟩

/-- Settles O25, by the stored pair: `step_shows_of_seeking` or `step_shows_of_body`, and what every step on an event
leaves alone. -/
theorem stepIsDecoderStepFunction : Obligations.StepIsDecoderStepFunction := by
  intro s d c ev rest hpair hi
  obtain ⟨hd, hcount, t, hstep, hseq, hbuf, hout⟩ : s.seq ≠ .decoded ∧ (d = .seekingStart → c = 0) ∧
      ∃ t, step s = .next t ∧ t.Shows (decoderStep s.cfg ⟨d, c, s.buf⟩ ev) := by
    obtain ⟨hq, rfl, rfl⟩ | ⟨hq, rfl⟩ := storedPair_eq_some_iff.mp hpair
    · exact ⟨by simp [hq], fun _ => rfl, step_shows_of_seeking hq ev hi⟩
    · exact ⟨by simp [hq], nofun, step_shows_of_body hq ev hi⟩
  obtain ⟨-, hin, henc, hres⟩ := step_rx_keeps hd hi hstep
  exact ⟨hcount, t, hstep, hseq, hbuf, hout, hin, henc, step_keeps_cfg hstep, hres⟩

end Sys2Proof.Machine
end

section
/-! SUPPORT. Runs that never stop (R92), the reports of a stream event (R106, R107), the steps of the end of a stream
and of a reset (R83, R86, R134), and the state after reset (R18). -/

namespace Sys2Proof.Machine

/-- Settles O26, by induction on the length of the run. -/
theorem stepNeverStops : Obligations.StepNeverStops := by
  refine ⟨exists_step, fun s n => ?run⟩
  case run =>
    induction n generalizing s with
    | zero => exact ⟨s, rfl⟩
    | succ n ih =>
      obtain ⟨t, ht⟩ := exists_step s
      rw [steps_succ ht]
      exact ih t

/-- Settles O36, by the kinds of step that take a stream event. -/
theorem reportsOfStreamEvents : Obligations.ReportsOfStreamEvents := by
  intro s t ev rest hd hi h
  cases step_eq_next_iff.mp h with
  | deliver hq => exact absurd hq hd
  | silent _ hi' | idle _ _ hi' | reset _ _ hi' | request _ _ _ _ hi' => cases hi.symm.trans hi'
  | skip _ _ hq _ hi' | start _ hq hi' | streamEnd _ hq hi' =>
    cases hi.symm.trans hi'
    simp [hq]
  | short _ c hq hi' =>
    cases hi.symm.trans hi'
    simp [hq, eq_comm]
  | body b _ c hq hc hi' =>
    cases hi.symm.trans hi'
    have hne : c ≠ 8 := by rintro rfl; exact absurd hc (by decide)
    simp [hq, hne]
  | last b _ c hq hc hi' =>
    cases hi.symm.trans hi'
    obtain rfl : c = 8 := Fin.ext hc
    simp [hq]

/-- An error raised while seeking changes nothing but the output: the decoder is where it goes back to (R109). -/
theorem State.raise_of_seeking {s : State} (h : s.seq = .seekingStart) (e : DecError) :
    s.raise e = s.report (.err e) :=
  State.ext h.symm rfl rfl rfl rfl rfl rfl

/-- Settles O14: the end of the stream selects the row that raises the error. -/
theorem resyncEndStep : Obligations.ResyncEndStep := by
  intro s rest hq
  refine ⟨?meaning, fun hi => ?step⟩
  case meaning =>
    rw [exec_resyncEnd hq, State.raise_of_seeking hq]
    rfl
  case step =>
    rw [step_end hq hi, State.raise_of_seeking (s := s.withInputs rest) hq]
    rfl

/-- Settles O17: the end of the stream in a frame body selects the row that raises the error, whatever `cnt` is. -/
theorem readShortStep : Obligations.ReadShortStep :=
  fun _ _ _ hq => ⟨exec_readFrameShort hq, step_short hq⟩

/-- Settles O39: the step is the reset input, on the state with that input consumed. -/
theorem resetInMidFrameReportsNothing : Obligations.ResetInMidFrameReportsNothing :=
  fun _ _ hd hi => ⟨_, step_reset hd hi, rfl, rfl, rfl, rfl, rfl⟩

/-- Settles O29: the reset state seeks, shows no output of either agent, and has the default parameter. -/
theorem resetMeetsInvariant : Obligations.ResetMeetsInvariant where
  stored := by decide
  start_held := nofun
  tx_formed := nofun
  refused_long := nofun
  result_of_buf := nofun
  cfg_wf := by decide

end Sys2Proof.Machine
end

section
/-! SUPPORT. Where each operation is selected (R57, R81 to R86, R94), and what it does there and elsewhere. -/

namespace Sys2Proof

section slots
variable {q : Sequencer}

theorem Slot.isSeeking_iff : Slot.isSeeking (.decoder q) = true ↔ q = .seekingStart := by
  cases q <;> simp [Slot.isSeeking]

theorem Slot.isDecoded_iff : Slot.isDecoded (.decoder q) = true ↔ q = .decoded := by
  cases q <;> simp [Slot.isDecoded]

theorem Slot.isBody_iff {p : Fin 9 → Bool} :
    Slot.isBody p (.decoder q) = true ↔ ∃ c, q = .frameBody c ∧ p c = true := by
  cases q <;> simp [Slot.isBody]

end slots

namespace Machine

section
variable {i : Instr} {s : State}

/-- An operation of the encoder runs in every state (R67). -/
theorem exists_exec_of_selectedIn_encoder (h : i.selectedIn .encoder = true) : ∃ t, exec i s = .next t := by
  cases i with
  | encSetmode | encQuerydata | encDeviceid | encSleep | encFirmware | encWorkingperiod | encReserved => exact ⟨_, rfl⟩
  | decMeas | decDevinfo | decUnknown | resyncStart | resyncSkip | readFrameBody | readFrameLast | resyncEnd
  | readFrameShort => cases h

/-- An operation of the decoder runs in the sequencer states that select it (R81 to R86, R94). -/
theorem exists_exec_of_selectedIn_decoder (h : i.selectedIn (.decoder s.seq) = true) : ∃ t, exec i s = .next t := by
  cases i with
  | encSetmode | encQuerydata | encDeviceid | encSleep | encFirmware | encWorkingperiod | encReserved => cases h
  | decMeas d ck tm => exact ⟨_, exec_decMeas (Slot.isDecoded_iff.mp h) d ck tm⟩
  | decDevinfo ty d ck tm => exact ⟨_, exec_decDevinfo (Slot.isDecoded_iff.mp h) ty d ck tm⟩
  | decUnknown ty d ck tm => exact ⟨_, exec_decUnknown (Slot.isDecoded_iff.mp h) ty d ck tm⟩
  | resyncStart => exact ⟨_, exec_resyncStart (Slot.isSeeking_iff.mp h)⟩
  | resyncSkip b => exact ⟨_, exec_resyncSkip (Slot.isSeeking_iff.mp h) b⟩
  | resyncEnd => exact ⟨_, exec_resyncEnd (Slot.isSeeking_iff.mp h)⟩
  | readFrameBody b =>
    obtain ⟨c, hq, hc⟩ := Slot.isBody_iff.mp h
    exact ⟨_, exec_readFrameBody hq (of_decide_eq_true hc) b⟩
  | readFrameLast b =>
    obtain ⟨c, hq, hc⟩ := Slot.isBody_iff.mp h
    exact ⟨_, exec_readFrameLast hq (of_decide_eq_true hc) b⟩
  | readFrameShort =>
    obtain ⟨c, hq, -⟩ := Slot.isBody_iff.mp h
    exact ⟨_, exec_readFrameShort hq⟩

/-- An operation that neither slot selects stops with the model's fault (notes/assumptions/8.md). -/
theorem exec_of_not_selected (henc : i.selectedIn .encoder = false) (hdec : i.selectedIn (.decoder s.seq) = false) :
    exec i s = .fault .notSelected := by
  cases i with
  | encSetmode | encQuerydata | encDeviceid | encSleep | encFirmware | encWorkingperiod | encReserved => cases henc
  | decMeas | decDevinfo | decUnknown =>
    cases hq : s.seq with
    | decoded => rw [hq] at hdec; cases hdec
    | seekingStart | frameBody => simp only [exec, execDecMeas, execDecDevinfo, execDecUnknown, hq]
  | resyncStart | resyncSkip | resyncEnd =>
    cases hq : s.seq with
    | seekingStart => rw [hq] at hdec; cases hdec
    | frameBody | decoded => simp only [exec, execResyncStart, execResyncSkip, execResyncEnd, hq]
  | readFrameBody =>
    cases hq : s.seq with
    | frameBody c =>
      rw [hq] at hdec
      simp only [exec, execReadFrameBody, hq, dif_neg (of_decide_eq_false hdec)]
    | seekingStart | decoded => simp only [exec, execReadFrameBody, hq]
  | readFrameLast =>
    cases hq : s.seq with
    | frameBody c =>
      rw [hq] at hdec
      simp only [exec, execReadFrameLast, hq, if_neg (of_decide_eq_false hdec)]
    | seekingStart | decoded => simp only [exec, execReadFrameLast, hq]
  | readFrameShort =>
    cases hq : s.seq with
    | frameBody => rw [hq] at hdec; cases hdec
    | seekingStart | decoded => simp only [exec, execReadFrameShort, hq]

end

/-- Settles O27: an operation runs in the slot of its agent that selects it, and stops elsewhere. -/
theorem operationsRunWhereSelected : Obligations.OperationsRunWhereSelected :=
  fun _ _ => ⟨fun h => h.elim exists_exec_of_selectedIn_encoder exists_exec_of_selectedIn_decoder, exec_of_not_selected⟩

end Machine
end Sys2Proof
end

section
/-! SUPPORT. The decoder of words as the inverse of the encoder, slot by slot (R45, R46, R57). -/

namespace Sys2Proof

/-- A stream event is decoded from no bits or from one byte (R57). -/
theorem decodeEvent_eq_instr_iff {onEnd i : Instr} {onByte : Byte → Instr} {w : List Byte} :
    decodeEvent onEnd onByte w = .instr i ↔ (w = [] ∧ onEnd = i) ∨ ∃ b, w = [b] ∧ onByte b = i := by
  match w with
  | [] => simp [decodeEvent]
  | [b] => simp [decodeEvent]
  | _ :: _ :: _ => simp [decodeEvent]

/-- `IN10` words are decoded from the bytes of a frame that begins with the start byte (R54). -/
theorem decodeIn10_eq_instr_iff {cfg : Config} {i : Instr} {w : List Byte} :
    decodeIn10 cfg w = .instr i ↔ ∃ f : InFrame, f.start = START ∧ w = f.bytes ∧ Instr.ofFrame cfg f = i := by
  constructor
  · intro h
    obtain ⟨hlen, hfirst⟩ := (exists_decodeIn10_iff cfg w).mp ⟨i, h⟩
    obtain ⟨f, rfl⟩ := exists_frame_of_length hlen
    exact ⟨f, Option.some_inj.mp hfirst, rfl, (Machine.eq_ofFrame_of_decodeIn10 h).symm⟩
  · rintro ⟨f, hstart, rfl, rfl⟩
    rw [Machine.decodeIn10_bytes, if_pos hstart]

/-- The words are those of a well-formed operation, its payload as the wire carries it, that a slot of the decoder
selects. -/
structure Instr.IsReadFrom (cfg : Config) (q : Sequencer) (i : Instr) (w : List Byte) : Prop where
  wf : i.wf cfg = true
  padded : i.padded = i
  selected : i.selectedIn (.decoder q) = true
  words : encode i = w

section
variable (cfg : Config)

theorem ofSeekByte_isReadFrom (b : Byte) : (Instr.ofSeekByte b).IsReadFrom cfg .seekingStart [b] := by
  by_cases hb : b = START
  · rw [Instr.ofSeekByte, if_pos hb, hb]
    exact ⟨rfl, rfl, rfl, rfl⟩
  · rw [Instr.ofSeekByte, if_neg hb]
    exact ⟨decide_eq_true hb, rfl, rfl, rfl⟩

theorem ofBodyByte_isReadFrom (c : Fin 9) (b : Byte) : (Instr.ofBodyByte c b).IsReadFrom cfg (.frameBody c) [b] := by
  by_cases hc : c.val < 8
  · rw [Instr.ofBodyByte, if_pos hc]
    exact ⟨rfl, rfl, decide_eq_true hc, rfl⟩
  · rw [Instr.ofBodyByte, if_neg hc]
    exact ⟨rfl, rfl, decide_eq_true (by omega), rfl⟩

theorem ofFrame_isReadFrom {f : InFrame} (h : f.start = START) :
    (Instr.ofFrame cfg f).IsReadFrom cfg .decoded f.bytes := by
  obtain ⟨start, ty, d, ck, tm⟩ := f
  obtain rfl : start = START := h
  by_cases hmeas : ty = MEAS_TYPE
  · rw [Instr.ofFrame_of_meas hmeas, hmeas]
    exact ⟨rfl, rfl, rfl, rfl⟩
  · by_cases hdev : ty ∈ cfg.devinfoTypes
    · rw [Instr.ofFrame_of_devinfo hmeas hdev]
      exact ⟨Bool.and_eq_true_iff.mpr ⟨decide_eq_true hmeas, decide_eq_true hdev⟩, rfl, rfl, rfl⟩
    · rw [Instr.ofFrame_of_unknown hmeas hdev]
      exact ⟨Bool.and_eq_true_iff.mpr ⟨decide_eq_true hmeas, decide_eq_true hdev⟩, rfl, rfl, rfl⟩

/-- Words that decode in a slot of the decoder are those of the operation they decode to. -/
theorem isReadFrom_of_decode {q : Sequencer} {i : Instr} {w : List Byte}
    (h : decode cfg (.decoder q) w = .instr i) : i.IsReadFrom cfg q w := by
  cases q with
  | seekingStart =>
    obtain ⟨rfl, rfl⟩ | ⟨b, rfl, rfl⟩ := decodeEvent_eq_instr_iff.mp h
    · exact ⟨rfl, rfl, rfl, rfl⟩
    · exact ofSeekByte_isReadFrom cfg b
  | frameBody c =>
    obtain ⟨rfl, rfl⟩ | ⟨b, rfl, rfl⟩ := decodeEvent_eq_instr_iff.mp h
    · exact ⟨rfl, rfl, rfl, rfl⟩
    · exact ofBodyByte_isReadFrom cfg c b
  | decoded =>
    obtain ⟨f, hstart, rfl, rfl⟩ := decodeIn10_eq_instr_iff.mp h
    exact ofFrame_isReadFrom cfg hstart

/-- A well-formed operation of the decoder is decoded from its words in the slots that select it. -/
theorem decode_encode_of_decoder {q : Sequencer} {i : Instr} (hwf : i.wf cfg = true)
    (hsel : i.selectedIn (.decoder q) = true) : decode cfg (.decoder q) (encode i) = .instr i := by
  cases i with
  | encSetmode | encQuerydata | encDeviceid | encSleep | encFirmware | encWorkingperiod | encReserved => cases hsel
  | resyncStart =>
    obtain rfl := Slot.isSeeking_iff.mp hsel
    rfl
  | resyncSkip b =>
    obtain rfl := Slot.isSeeking_iff.mp hsel
    exact congrArg Decoded.instr (if_neg (of_decide_eq_true hwf))
  | resyncEnd =>
    obtain rfl := Slot.isSeeking_iff.mp hsel
    rfl
  | readFrameBody b =>
    obtain ⟨c, rfl, hc⟩ := Slot.isBody_iff.mp hsel
    exact congrArg Decoded.instr (if_pos (of_decide_eq_true hc))
  | readFrameLast b =>
    obtain ⟨c, rfl, hc⟩ := Slot.isBody_iff.mp hsel
    exact congrArg Decoded.instr (if_neg (of_decide_eq_true hc).not_lt)
  | readFrameShort =>
    obtain ⟨c, rfl, -⟩ := Slot.isBody_iff.mp hsel
    rfl
  | decMeas d ck tm =>
    obtain rfl := Slot.isDecoded_iff.mp hsel
    exact decodeIn10_eq_instr_iff.mpr ⟨⟨START, MEAS_TYPE, d, ck, tm⟩, rfl, rfl, Instr.ofFrame_of_meas rfl⟩
  | decDevinfo ty d ck tm =>
    obtain rfl := Slot.isDecoded_iff.mp hsel
    obtain ⟨hmeas, hdev⟩ := Bool.and_eq_true_iff.mp hwf
    exact decodeIn10_eq_instr_iff.mpr ⟨⟨START, ty, d, ck, tm⟩, rfl, rfl,
      Instr.ofFrame_of_devinfo (of_decide_eq_true hmeas) (of_decide_eq_true hdev)⟩
  | decUnknown ty d ck tm =>
    obtain rfl := Slot.isDecoded_iff.mp hsel
    obtain ⟨hmeas, hdev⟩ := Bool.and_eq_true_iff.mp hwf
    exact decodeIn10_eq_instr_iff.mpr ⟨⟨START, ty, d, ck, tm⟩, rfl, rfl,
      Instr.ofFrame_of_unknown (of_decide_eq_true hmeas) (of_decide_eq_true hdev)⟩

/-- A request that fits is well-formed under every parameter (R52, R68). -/
theorem wf_ofRequest {P : List Byte} (h : P.length ≤ 12) (cmd : Byte) : (Instr.ofRequest cmd P).wf cfg = true := by
  have hfits : payloadFits P = true := decide_eq_true h
  exact ofRequest_cases P (motive := fun _ i => i.wf cfg = true) hfits hfits hfits hfits hfits hfits
    (fun _ hcmd => Bool.and_eq_true_iff.mpr ⟨decide_eq_true hcmd, hfits⟩) cmd

end

theorem selectedIn_encoder_ofRequest (cmd : Byte) (P : List Byte) :
    (Instr.ofRequest cmd P).selectedIn .encoder = true :=
  ofRequest_cases P (motive := fun _ i => i.selectedIn .encoder = true) rfl rfl rfl rfl rfl rfl (fun _ _ => rfl) cmd

/-- Words with the length and the constants of `OUT19` are an outbound frame but for the checksum byte (R45). -/
theorem outFrame_eq_set_of_hasOutConstants {w : List Byte} (h : HasOutConstants w) :
    outFrame (w.getD 2 0) ((w.drop 3).take 12) = w.set 17 (chkOut (w.getD 2 0) ((w.drop 3).take 12)) := by
  obtain ⟨hlen, h0, h1, h15, h16, h18⟩ := (hasOutConstants_iff w).mp h
  match w, hlen with
  | [b0, b1, b2, b3, b4, b5, b6, b7, b8, b9, b10, b11, b12, b13, b14, b15, b16, b17, b18], _ =>
    cases h0; cases h1; cases h15; cases h16; cases h18
    rfl

namespace Machine

/-- Settles O49: in the encoder's slot a request is read back padded, and it is its own padding; in the decoder's, by
the slots that select the operation. -/
theorem decodeEncodeRoundTrip : Obligations.DecodeEncodeRoundTrip := by
  intro cfg i slot hwf hpad hsel
  cases slot with
  | encoder =>
    obtain ⟨hread, -⟩ := shortPayloadReadsBackPadded cfg i hwf hsel
    rw [hread, hpad]
  | decoder q => exact decode_encode_of_decoder cfg hwf hsel

/-- Settles O51: words that decode in the encoder's slot have the constants of `OUT19` and decode to the request they
carry; in the decoder's slots, `isReadFrom_of_decode`. -/
theorem encodeOfDecodedWords : Obligations.EncodeOfDecodedWords := by
  intro cfg slot w i h
  cases slot with
  | encoder =>
    have hconst : HasOutConstants w := (exists_decodeOut19_iff w).mp ⟨i, h⟩
    have hlen : ((w.drop 3).take 12).length = 12 := by simp [hconst.1]
    obtain rfl := eq_ofRequest_of_decodeOut19 h
    refine ⟨wf_ofRequest cfg hlen.le _, ?padded, selectedIn_encoder_ofRequest _ _, fun hne => absurd rfl hne,
      fun _ => ?words⟩
    case padded => rw [padded_ofRequest, padPayload_of_length hlen]
    case words => rw [encode_ofRequest, padPayload_of_length hlen, outFrame_eq_set_of_hasOutConstants hconst]
  | decoder q =>
    obtain ⟨hwf, hpad, hsel, hwords⟩ := isReadFrom_of_decode cfg h
    exact ⟨hwf, hpad, hsel, fun _ => hwords, nofun⟩

/-- Settles O54: the written-out words, run through the decoder of their slot. -/
theorem writtenOutWordsDecode : Obligations.WrittenOutWordsDecode := by
  unfold Obligations.WrittenOutWordsDecode
  decide

end Machine
end Sys2Proof
end

section
/-! SUPPORT. The bytes of a padded payload and of an outbound frame (R45, R50), and the byte lanes of a port (R78). -/

namespace Sys2Proof

/-- A padded payload holds the bytes of the payload and zeros behind them (R50). -/
theorem padPayload_getD (P : List Byte) (k : Nat) : (padPayload P).getD k 0 = P.getD k 0 := by
  obtain hlt | hle := Nat.lt_or_ge k P.length
  · exact List.getD_append _ _ _ _ hlt
  · rw [padPayload, List.getD_append_right _ _ _ _ hle, List.getD_eq_getElem?_getD,
      List.getElem?_getD_replicate_default_eq, List.getD_eq_default _ _ hle]

/-- The payload byte `i` of an outbound frame is at offset `3 + i` (R45). -/
theorem outFrame_getD_payload (cmd : Byte) {data : List Byte} {i : Nat} (h : i < data.length) :
    (outFrame cmd data).getD (3 + i) 0 = data.getD i 0 := by
  rw [Nat.add_comm, outFrame_eq]
  exact List.getD_append _ _ _ _ h

/-- The checksum byte of an outbound frame of 12 data bytes is at offset 17 (R45). -/
theorem outFrame_getElem?_checksum (cmd : Byte) {data : List Byte} (h : data.length = 12) :
    (outFrame cmd data)[17]? = some (chkOut cmd data) := by
  simp [outFrame_eq, h]

/-- Byte lane `k` of a number is its byte `k` (R78, R101). -/
theorem lane_ofNat {n k : Nat} (h : k < n) (x : Nat) :
    lane (BitVec.ofNat (8 * n) x) k = BitVec.ofNat 8 (x >>> (8 * k)) := by
  refine BitVec.eq_of_getLsbD_eq fun j hj => ?_
  have hbit : 8 * k + j < 8 * n := by omega
  rw [lane, BitVec.getLsbD_extractLsb', BitVec.getLsbD_ofNat, BitVec.getLsbD_ofNat, Nat.testBit_shiftRight,
    decide_eq_true hbit, Bool.true_and]

/-- The lanes of the number of a list are its bytes (R78, R101). -/
theorem lane_lanesValue {F : List Byte} {k : Nat} (h : k < F.length) :
    lane (BitVec.ofNat (8 * F.length) (lanesValue F)) k = F.getD k 0 := by
  have hbyte : (numberBytes F.length (lanesValue F))[k]? = some (BitVec.ofNat 8 (lanesValue F >>> (8 * k))) := by
    simp [numberBytes, h]
  rw [numberBytes_lanesValue] at hbyte
  rw [lane_ofNat h, List.getD_eq_getElem?_getD, hbyte, Option.getD_some]

/-- The two filler bytes sum to minus two modulo 256: the byte sum of offsets 2..16 is the outbound checksum (R60). -/
theorem ofNat_sumBytes_fillers (cmd : Byte) (data : List Byte) :
    BitVec.ofNat 8 (sumBytes (cmd :: (data ++ [FILL, FILL]))) = chkOut cmd data := by
  have hsum : sumBytes (cmd :: (data ++ [FILL, FILL])) = cmd.toNat + (sumBytes data + 510) := by simp
  apply BitVec.eq_of_toNat_eq
  rw [chkOut_eq_ofNat, hsum, BitVec.toNat_ofNat, BitVec.toNat_ofNat]
  omega

namespace Machine

/-- Settles O3: a code without a name makes the reserved form, whose checksum term is the code minus two modulo 256. -/
theorem reservedCommandForm : Obligations.ReservedCommandForm := by
  intro s cmd P hcmd
  have hform : Instr.ofRequest cmd P = .encReserved cmd P := ofRequest_reserved hcmd P
  refine ⟨hform, fun hfits => ?frame, fun hlong => ?refusal⟩
  case frame =>
    rw [← hform]
    exact exec_ofRequest_formFrame hfits rfl s
  case refusal =>
    rw [← hform]
    exact exec_ofRequest_of_too_long hlong cmd s

/-- Settles O5: the frame is that of 12 data bytes, which stand with the command byte and the fillers at offsets
2..16. -/
theorem outboundChecksumRecomputes : Obligations.OutboundChecksumRecomputes := by
  intro cmd P F h
  obtain ⟨hfits, rfl⟩ := eq_outFrame_of_encodeFrame h
  have hlen : (padPayload P).length = 12 := length_padPayload hfits
  have hsummed : ((outFrame cmd (padPayload P)).drop 2).take 15 = cmd :: (padPayload P ++ [FILL, FILL]) := by
    simp [outFrame_eq, hlen, List.take_append]
  have hcmd : (outFrame cmd (padPayload P)).getD 2 0 = cmd := rfl
  have hdata : ((outFrame cmd (padPayload P)).drop 3).take 12 = padPayload P := by
    simp [outFrame_eq, ← hlen]
  rw [outFrame_getElem?_checksum cmd hlen, hsummed, hcmd, hdata, ofNat_sumBytes_fillers]
  exact ⟨rfl, rfl⟩

end Machine
end Sys2Proof
end

section
/-! SUPPORT. The encoder's ports (R78). -/

namespace Sys2Proof.Machine

theorem EncPortIn.payload_length (p : EncPortIn) : p.payload.length = p.enc_len.toNat := by
  simp [EncPortIn.payload]

/-- The payload the ports carry holds the lanes below `enc_len` (R78). -/
theorem EncPortIn.payload_getD (p : EncPortIn) (i : Nat) :
    p.payload.getD i 0 = if i < p.enc_len.toNat then lane p.enc_data i else 0 := by
  split
  next h => simp [EncPortIn.payload, h]
  next h => exact List.getD_eq_default _ _ (by simpa [p.payload_length] using h)

/-- The ports see `enc_data` through the payload alone (R78). -/
theorem encPorts_congr {p q : EncPortIn} (hcmd : p.enc_cmd = q.enc_cmd) (hpayload : p.payload = q.payload) :
    encPorts p = encPorts q := by
  rw [encPorts, encPorts, hcmd, hpayload]

theorem encPorts_of_fits {p : EncPortIn} (h : p.enc_len.toNat ≤ 12) :
    encPorts p = ⟨true, false, BitVec.ofNat 152 (lanesValue (outFrame p.enc_cmd (padPayload p.payload)))⟩ := by
  rw [encPorts, encodeFrame_of_fits (p.payload_length.trans_le h)]

/-- A refusal is shown by the two flags; nothing is said of its lanes (U8). -/
theorem encPorts_of_too_long {p : EncPortIn} (h : 12 < p.enc_len.toNat) :
    (encPorts p).enc_ok = false ∧ (encPorts p).enc_err_too_large = true := by
  rw [encPorts, encodeFrame_of_too_long (h.trans_eq p.payload_length.symm)]
  exact ⟨rfl, rfl⟩

/-- The lanes of an accepted request are the bytes of its frame (R78). -/
theorem lane_enc_frame {p : EncPortIn} (h : p.enc_len.toNat ≤ 12) {k : Nat} (hk : k < 19) :
    lane (encPorts p).enc_frame k = (outFrame p.enc_cmd (padPayload p.payload)).getD k 0 := by
  have hlen : (outFrame p.enc_cmd (padPayload p.payload)).length = 19 := by
    rw [outFrame_length, length_padPayload (p.payload_length.trans_le h)]
  have hlane := lane_lanesValue (hlen ▸ hk)
  rw [hlen] at hlane
  rw [encPorts_of_fits h]
  exact hlane

/-- Settles O45: the lanes are the bytes of the frame, which are known by offset. -/
theorem encoderPortsPresentFrame : Obligations.EncoderPortsPresentFrame := by
  intro p
  refine ⟨fun h => ?accepted, fun h => encPorts_of_too_long h⟩
  case accepted =>
    have hdata : (padPayload p.payload).length = 12 := length_padPayload (p.payload_length.trans_le h)
    have lane_eq {k : Nat} {b : Byte} (hk : k < 19)
        (hb : (outFrame p.enc_cmd (padPayload p.payload))[k]? = some b) : lane (encPorts p).enc_frame k = b := by
      rw [lane_enc_frame h hk, List.getD_eq_getElem?_getD, hb, Option.getD_some]
    obtain ⟨-, h0, h1, h15, h16, h18⟩ := (hasOutConstants_iff _).mp (hasOutConstants_outFrame p.enc_cmd hdata)
    refine ⟨by rw [encPorts_of_fits h], by rw [encPorts_of_fits h], lane_eq (by decide) h0, lane_eq (by decide) h1,
      lane_eq (by decide) (outFrame_getElem?_two _ _), fun i hi => ?payload, lane_eq (by decide) h15,
      lane_eq (by decide) h16, lane_eq (by decide) ?checksum, lane_eq (by decide) h18⟩
    case payload =>
      rw [lane_enc_frame h (by omega), outFrame_getD_payload _ (hdata ▸ hi), padPayload_getD, p.payload_getD]
    case checksum =>
      rw [outFrame_getElem?_checksum _ hdata, chkOut_congr _ (sumBytes_padPayload p.payload)]

/-- Settles O46: the payload takes no lane at `enc_len` or above. -/
theorem unusedLanesIgnored : Obligations.UnusedLanesIgnored := by
  intro p q hcmd hlen hlanes
  refine encPorts_congr hcmd ?_
  rw [EncPortIn.payload, EncPortIn.payload, ← hlen]
  exact List.map_congr_left fun i hi => hlanes i (List.mem_range.mp hi)

end Sys2Proof.Machine
end

section
/-! SUPPORT. Runs over a stream up to the first start byte or its end (R91), and over an outbound frame looped back
(R79). -/

namespace Sys2Proof.Machine

/-- Settles O33: the bytes before the first start byte are skipped, then one step takes the start byte or the end. -/
theorem resyncConsumesUpToStart : Obligations.ResyncConsumesUpToStart := by
  intro s g rest hq hg
  refine ⟨fun hi => ?start, fun hi => ?streamEnd, fun k x hpos hk hi => ?silent⟩
  case start =>
    obtain ⟨o, hskip, -⟩ := steps_skip g hq hg hi
    rw [steps_add hskip, steps_one, step_start (s := { s with decOut := o, inputs := _ }) hq rfl]
    rfl
  case streamEnd =>
    obtain ⟨o, hskip, -⟩ := steps_skip g hq hg hi
    rw [steps_add hskip, steps_one, step_end (s := { s with decOut := o, inputs := _ }) hq rfl]
    exact congrArg _ (State.raise_of_seeking (s := { s with decOut := o, inputs := rest }) hq .endOfStream)
  case silent =>
    have hprefix : s.inputs = (g.take k).map (fun b => .rx (.rxByte b)) ++
        ((g.drop k).map (fun b => .rx (.rxByte b)) ++ x :: rest) := by
      rw [← List.append_assoc, ← List.map_append, List.take_append_drop, hi]
    have hlen : (g.take k).length = k := List.length_take_of_le hk
    obtain ⟨o, hskip, hout⟩ := steps_skip (g.take k) hq (fun h => hg (List.mem_of_mem_take h)) hprefix
    have hne : g.take k ≠ [] := List.ne_nil_of_length_pos (hlen.symm ▸ hpos)
    rw [hlen] at hskip
    exact ⟨_, hskip, hout hne, hq⟩

/-- `read_frame` of an outbound frame answers its first ten bytes and leaves the other nine (R79, R90). -/
theorem readFrame_outFrame (cmd : Byte) {data : List Byte} (h : data.length = 12) :
    readFrame ((outFrame cmd data).map .rxByte) =
      .frame ((outFrame cmd data).take 10) (((outFrame cmd data).drop 10).map .rxByte) :=
  match data, h with
  | [_, _, _, _, _, _, _, _, _, _, _, _], _ => rfl

/-- Read as an inbound frame, an outbound one has the type byte `0xB4` (R45, R46). -/
theorem frameOf_outFrame_type (cmd : Byte) (data : List Byte) :
    (frameOf (bufOfList ((outFrame cmd data).take 10))).type = OUT_TYPE :=
  bufOfList_get _ 1 (by decide)

/-- Read as an inbound frame, an outbound one has the command byte and the first five data bytes as its payload (R45,
R46). -/
theorem frameOf_outFrame_payload (cmd : Byte) {data : List Byte} (h : data.length = 12) :
    (frameOf (bufOfList ((outFrame cmd data).take 10))).payload =
      ⟨cmd, data.getD 0 0, data.getD 1 0, data.getD 2 0, data.getD 3 0, data.getD 4 0⟩ :=
  match data, h with
  | [_, _, _, _, _, _, _, _, _, _, _, _], _ => by simp [frameOf, bufOfList, outFrame_eq]

/-- Settles O37: the run is that of `read_frame`, which answers the first ten bytes of the outbound frame; their type
byte is `OUT_TYPE`. -/
theorem loopedBackFrameIsUnknown : Obligations.LoopedBackFrameIsUnknown := by
  intro s cmd P F rest hq hdev henc hi
  obtain ⟨hfits, rfl⟩ := eq_outFrame_of_encodeFrame henc
  have hdata : (padPayload P).length = 12 := length_padPayload hfits
  have hi' : s.inputs = ((outFrame cmd (padPayload P)).map RxEvent.rxByte).map .rx ++ rest := by
    rw [hi, List.map_map]
    rfl
  obtain ⟨hframe, -⟩ := readFrameIsRunOfSteps s _ rest hq hi'
  obtain ⟨-, n, hn, hrun⟩ := hframe _ _ (readFrame_outFrame cmd hdata)
  obtain rfl : n = 10 := by
    rw [List.length_map, List.length_map, List.length_drop, outFrame_length, hdata] at hn
    omega
  have htype := frameOf_outFrame_type cmd (padPayload P)
  refine ⟨_, _, hrun, hq, rfl, ?variant, ?type, ?payload, ?rest⟩
  case variant =>
    rw [decodeFrame_variant_eq_unknown_iff, htype]
    exact ⟨by decide, hdev⟩
  case type => rw [decodeFrame_type, htype]
  case payload =>
    rw [decodeFrame_payload, frameOf_outFrame_payload cmd hdata]
    simp only [padPayload_getD]
  case rest =>
    rw [List.map_map]
    rfl

end Sys2Proof.Machine
end

section
/-! SUPPORT. The result ports of a delivered result (R101), the conditions of a completing step (R103), and the PM
values (R98). -/

namespace Sys2Proof.Machine

section
variable {cfg : Config} {f : InFrame}

/-- The ports of the PM values show those of a measurement (R95, R101). -/
theorem resPorts_of_measurement {x y : Half} (h : (decodeFrame cfg f).variant = .measurement x y) :
    (resPorts cfg f).pm25_x10 = x ∧ (resPorts cfg f).pm10_x10 = y := by
  unfold decodeFrame at h
  split at h
  · cases h
    exact ⟨rfl, rfl⟩
  · split at h <;> cases h

/-- The ports of the date and the device ID show those of a device-info record (R96, R101). -/
theorem resPorts_of_deviceInfo {y m d : Byte} {i : Half} (h : (decodeFrame cfg f).variant = .deviceInfo y m d i) :
    (resPorts cfg f).year = y ∧ (resPorts cfg f).month = m ∧ (resPorts cfg f).day = d ∧
      (resPorts cfg f).device_id = i := by
  unfold decodeFrame at h
  split at h
  · cases h
  · split at h
    · cases h
      exact ⟨rfl, rfl, rfl, rfl⟩
    · cases h

end

/-- The payload port shows the payload bytes lane by lane (R101). -/
theorem lane_res_payload (cfg : Config) (f : InFrame) {k : Nat} (h : k < 6) :
    lane (resPorts cfg f).res_payload k = f.payload.bytes.getD k 0 :=
  lane_lanesValue (F := f.payload.bytes) h

/-- Settles O44: under the invariant the result delivered is the decode of the frame in `buf`, of which the ports are
functions. -/
theorem resultPortsShowResult : Obligations.ResultPortsShowResult := by
  intro s hinv
  refine ⟨?done, fun r hr => ?shown⟩
  case done => cases hout : s.decOut <;> simp [decPorts, hout]
  case shown =>
    obtain ⟨-, -, rfl⟩ := hinv.result_of_buf r hr
    refine ⟨resPorts s.cfg s.frame, by simp [decPorts, hr], rfl, (decodeFrame_checksum_ok _ _).symm,
      (decodeFrame_terminator_ok _ _).symm, (decodeFrame_type _ _).symm, fun k hk => ?payload, rfl, rfl,
      fun x y h => resPorts_of_measurement h, fun y m d i h => resPorts_of_deviceInfo h⟩
    case payload => rw [lane_res_payload s.cfg s.frame hk, decodeFrame_payload]

/-- A hard condition is the whole output of its step, and that output is no frame (R103, R115). -/
theorem DecOut.conditions_eq_singleton_of_hard {o : DecOut} {c : Condition} (hc : c ∈ o.conditions)
    (hhard : c.cls = .hard) : o.conditions = [c] ∧ ∀ r, o ≠ .frame r := by
  cases o with
  | none => cases hc
  | frame r => obtain ⟨rfl, -⟩ | ⟨rfl, -⟩ | ⟨rfl, -⟩ := mem_resultConditions.mp hc <;> cases hhard
  | err e =>
    cases e with
    | endOfStream | shortRead =>
      obtain rfl := List.mem_singleton.mp hc
      exact ⟨rfl, nofun⟩

/-- Settles O48: the errors report one condition, and the conditions of a completing step are those of the completed
frame, which the last byte changes in its terminator alone. -/
theorem conditionsOfOutputs : Obligations.ConditionsOfOutputs := by
  refine ⟨fun o c => DecOut.conditions_eq_singleton_of_hard, fun s b hq => ?completing⟩
  case completing =>
    have hchk : chkIn { frameOf s.buf with term := b } = chkIn (frameOf s.buf) := chkIn_congr rfl rfl
    refine ⟨_, exec_readFrameLast_deliver hq b, ?checksum, badTerminator_mem_resultConditions,
      unknownResponseType_mem_resultConditions⟩
    case checksum =>
      rw [← hchk]
      exact checksumMismatch_mem_resultConditions

/-- Settles O24: the value is the quotient of a 16-bit integer by ten. -/
theorem pmValueIsExactTenth : Obligations.PmValueIsExactTenth := by
  intro raw
  have hmax : (raw.toNat : Rat) ≤ 65535 := by exact_mod_cast Nat.le_of_lt_succ raw.isLt
  have hdef : pmValue raw = (raw.toNat : Rat) / 10 := rfl
  rw [hdef]
  exact ⟨div_mul_cancel₀ _ (by norm_num), by positivity, by gcongr⟩

end Sys2Proof.Machine
end
